-- ==== Sys2Proof/Word.lean ====
section
/-!
DEFINITION. The words of the FMA632 that the manual treats as bits: line characters, van tags, setpoint
sequences, notice and result masks. Every other quantity (power in 0.1 kW, energy in 0.1 kWh, minutes, counts)
is a plain `Nat`, as the Conventions of spec/00_scope.md give them: whole numbers with a stated range.
-/
namespace Sys2Proof

/-- One line character (R99: eight data bits), and every one-byte field of a message. -/
abbrev Byte := BitVec 8

/-- A van tag: 24 bits, every value a tag (R1, R131). -/
abbrev Tag := BitVec 24

/-- A published sequence: 3 bits, 0 to 7, counting modulo 8 (R1, R88). -/
abbrev Seq := BitVec 3

/-- A 16-bit set of flags as it stands on the line: a notice mask (R164) or a result set (R108). -/
abbrev Mask := BitVec 16

end Sys2Proof
end

