-- ==== Sys2Proof/Syntax.lean ====
section
/-!
DEFINITION. The commands of the FMA632: one constructor of `Instr` for each row of spec/opcode_table.json (the
part's steps, "each whole and indivisible", spec/95_what_each_step_holds.md). A command names the port, the
cabinet, the slot or the line character it concerns, and carries what comes from outside the part at that moment
(a character, pin levels, strap levels). A message a handler takes is not an operand: it waits in the port's
inbound buffers (R104), where the character and completion events put it.
-/
namespace Sys2Proof

/-- The six link ports: the D-port, the S-port and C0 to C3 (chapter "Masters and Ports" of spec/00_scope.md). -/
inductive Port where
  | d
  | s
  | c (n : Fin 4)
deriving DecidableEq, Repr

/-- The three framing errors of R100. -/
inductive FramingCause where
  /-- In RECEIVING, a gap of more than 2 character times before the next character. -/
  | gap
  /-- A character received with its stop bit low, a break included. -/
  | lowStop
  /-- The first character received in HUNT after a completed message. -/
  | afterComplete
deriving DecidableEq, Repr

/-- What the general pins show at a READ: the levels on GP7:0 (R170), and whether the filter of GP1 has recognised a
rising edge since its last recognised falling edge, dedication or reset release (R173), which no row of the table reports.
DESIGN CHOICE (log 8). -/
structure PinReading where
  /-- levels on GP7:0, bit n for GPn -/
  levels : Byte
  /-- GP1's filter has recognised a rising edge since then -/
  rise : Bool
deriving DecidableEq, Repr

/-- The commands, in the order of spec/opcode_table.json. -/
inductive Instr where
  /-- MESSAGE_COMPLETE (R103): port `p`'s receiver finishes delimiting a message. -/
  | messageComplete (p : Port)
  /-- HEADER_FAULT (R101): port `p`'s receiver finds a bad header. -/
  | headerFault (p : Port)
  /-- FRAMING_ERROR (R100) of the given cause on port `p`. -/
  | framingError (p : Port) (cause : FramingCause)
  /-- IDLE_GAP_ELAPSED (R100): port `p`'s line has rested idle for 3 character times. -/
  | idleGapElapsed (p : Port)
  /-- SILENCE_TIMER_EXPIRY (R120) of cabinet port C`c`. -/
  | silenceTimerExpiry (c : Fin 4)
  /-- PAYLOAD_CHECK (R106): port `p`'s handler takes a payload-failure entry. -/
  | payloadCheck (p : Port)
  /-- UNKNOWN_KIND (R106): port `p`'s handler takes an item of a Kind absent from the table or outbound only. -/
  | unknownKind (p : Port)
  /-- KEEPALIVE (R138) taken by port `p`'s handler. -/
  | keepalive (p : Port)
  /-- OUTLETS (R129) taken by port `p`'s handler. -/
  | outlets (p : Port)
  /-- PLUG (R131) taken by port `p`'s handler. -/
  | plug (p : Port)
  /-- UNPLUG (R132) taken by port `p`'s handler. -/
  | unplug (p : Port)
  /-- METER (R133) taken by port `p`'s handler. -/
  | meter (p : Port)
  /-- ROUND END (R137) taken by port `p`'s handler. -/
  | roundEnd (p : Port)
  /-- APPLIED (R136) taken by port `p`'s handler. -/
  | applied (p : Port)
  /-- OUTLET FAULT (R139) taken by port `p`'s handler. -/
  | outletFault (p : Port)
  /-- ROSTER PUT (R12) taken by port `p`'s handler. -/
  | rosterPut (p : Port)
  /-- ROSTER DROP (R16) taken by port `p`'s handler. -/
  | rosterDrop (p : Port)
  /-- CLOCK SET (R31) taken by port `p`'s handler. -/
  | clockSet (p : Port)
  /-- VAN POLICY (R143) taken by port `p`'s handler. -/
  | vanPolicy (p : Port)
  /-- TAG WINDOW (R9) taken by port `p`'s handler. -/
  | tagWindow (p : Port)
  /-- INDEX_REBUILD_END (R10): the index rebuild in flight ends. -/
  | indexRebuildEnd
  /-- READ (R112) taken by port `p`'s handler, with what the general pins show at that moment (R170, R173). -/
  | read (p : Port) (pins : PinReading)
  /-- REPLY LIMIT (R111) taken by port `p`'s handler. -/
  | replyLimit (p : Port)
  /-- NOTICE ENABLE (R167) taken by port `p`'s handler. -/
  | noticeEnable (p : Port)
  /-- NOTICE CLEAR (R167) taken by port `p`'s handler. -/
  | noticeClear (p : Port)
  /-- SITE LIMIT (R38) taken by port `p`'s handler. -/
  | siteLimit (p : Port)
  /-- LOAD REPORT (R39) taken by port `p`'s handler. -/
  | loadReport (p : Port)
  /-- RAMP LIMIT (R46) taken by port `p`'s handler. -/
  | rampLimit (p : Port)
  /-- MODE REQUEST (R146) taken by port `p`'s handler. -/
  | modeRequest (p : Port)
  /-- RESTART (R161) taken by port `p`'s handler. -/
  | restart (p : Port)
  /-- RELEASE CABINET (R125) taken by port `p`'s handler. -/
  | releaseCabinet (p : Port)
  /-- ALLOCATION SETUP (R149) taken by port `p`'s handler. -/
  | allocationSetup (p : Port)
  /-- SLOT ASSIGN (R150) taken by port `p`'s handler. -/
  | slotAssign (p : Port)
  /-- PIN SETUP (R151) taken by port `p`'s handler; `pins` are the levels on GP7:0 at that moment (R172). -/
  | pinSetup (p : Port) (pins : Byte)
  /-- PIN WRITE (R152) taken by port `p`'s handler. -/
  | pinWrite (p : Port)
  /-- END_OF_GAP (R110): port `p`'s transmitter ends its 3-character gap. -/
  | endOfGap (p : Port)
  /-- MESSAGE_SENT (R110): port `p`'s transmitter finishes its message. -/
  | messageSent (p : Port)
  /-- SECOND_COMPLETE (R28): the second fraction completes one second. -/
  | secondComplete
  /-- MINUTE_EVENT (R28): the second counter wraps from 59 to 0. -/
  | minuteEvent
  /-- MINUTE_PULSE (R29): a recognised falling edge of GP1. -/
  | minutePulse
  /-- SHED_ASSERTION (R44): a recognised falling edge of GP0. -/
  | shedAssertion
  /-- SHED_RELEASE (R45): a recognised rising edge of GP0. -/
  | shedRelease
  /-- ROUND_TIMER_EXPIRY (R77). -/
  | roundTimerExpiry
  /-- PASS_COMPLETION (R82). -/
  | passCompletion
  /-- SLOT (R86): the slot time of slot `k`, 1 to 3, comes (slot 0 is taken at pass completion, R83). -/
  | slot (k : Fin 4)
  /-- RESET_ASSERTED (R163): RESET falls. -/
  | resetAsserted
  /-- RESET_RELEASE (R163): RESET rises; the strap sampler sees CABS1:0 and BAUD1:0 (R175), the filters `pins` (R173). -/
  | resetRelease (cabs baud : BitVec 2) (pins : Byte)
  /-- CHARACTER_RECEIVED (R100): a character arrives on port `p`'s line. -/
  | characterReceived (p : Port) (b : Byte)
deriving DecidableEq, Repr

end Sys2Proof
end

