-- ==== Sys2Proof/Decode.lean ====
section
/-!
DEFINITION. Words that spell a command by the bits of spec/opcode_table.json. No row of that table gives bits
(every row's "fields" is empty and none has "fixed"): the part has no instruction words, its commands are events
and messages. Message framing and the message kinds are decoded by the machine itself (Machine/Kinds.lean,
Machine/Links.lean).
-/
namespace Sys2Proof

/-- No word spells a command: no row of the table gives bits (log 1). -/
def decodeTableWord (_nbits _w : Nat) : Option Instr := none

end Sys2Proof
end

