-- ==== Sys2Proof/Machine/Bytes.lean ====
section
/-!
DEFINITION. Fields of more than one byte, high byte first on the line (spec/00_scope.md, "Line order").
-/
namespace Sys2Proof.Machine

/-- The value of a two-byte field. -/
def field16 (hi lo : Byte) : Nat := hi.toNat * 256 + lo.toNat

/-- The van tag of a three-byte field. -/
def fieldTag (a b c : Byte) : Tag := a ++ b ++ c

/-- A one-byte field holding `n`. -/
def byte1 (n : Nat) : List Byte := [BitVec.ofNat 8 n]

/-- A two-byte field holding `n`. -/
def byte2 (n : Nat) : List Byte := [BitVec.ofNat 8 (n / 256), BitVec.ofNat 8 n]

/-- A three-byte field holding a van tag. -/
def byte3 (t : Tag) : List Byte := [BitVec.ofNat 8 (t.toNat / 65536), BitVec.ofNat 8 (t.toNat / 256), BitVec.ofNat 8 t.toNat]

end Sys2Proof.Machine
end

