-- ==== Sys2Proof/Config.lean ====
section
/-!
DEFINITION. What a board fixes for one FMA632, at the values the model's reset state takes. The straps (R175)
and the pin levels are inputs from outside: the command RESET_RELEASE carries them. `State.reset` is the part
right after one such release, and takes the values named here.
-/
namespace Sys2Proof.Config

/-- CABS1:0 at the reset release that `State.reset` stands for. DESIGN CHOICE (log 2, unsafe): the straps are an
input the manual gives no value for; code 00 is the strapping of the worked sequence of section 10.6 (one cabinet).
The command RESET_RELEASE gives every other strapping. -/
def resetCabs : BitVec 2 := 0

/-- BAUD1:0 at the reset release that `State.reset` stands for. DESIGN CHOICE (log 2, unsafe): code 00. -/
def resetBaud : BitVec 2 := 0

/-- Levels on GP7:0 at the reset release that `State.reset` stands for. DESIGN CHOICE (log 2, unsafe): all low.
Every pin is a general input then (R170), so the levels reach no block before a PIN SETUP. -/
def resetPins : Byte := 0

end Sys2Proof.Config
end

