-- ==== Sys2Proof/Machine/State.lean ====
section
/-!
DEFINITION. The state of the FMA632: every item the blocks of spec/00_scope.md hold, block by block, as plain data,
and the queue of commands that wait. Power is in 0.1 kW, energy in 0.1 kWh, times of day in minutes (Conventions
of spec/00_scope.md). A field that the manual makes present only in some states (R1, R5) stands inside the
alternative that has it, so that it cannot be present elsewhere.
-/
namespace Sys2Proof.Machine

/-! ### Bays (chapter 1) -/

/-- Disposition of a bay in session (R1). The roster slot is present only when ROSTERED. -/
inductive Disposition where
  | rostered (slot : Fin 64)
  | courtesy
  | refused
  | duplicate
deriving DecidableEq, Repr

/-- State of a bay in session (R1); the fault code is present only in FAULT. -/
inductive Phase where
  | active
  | satisfied
  | barred
  | fault (code : Byte)
deriving DecidableEq, Repr

/-- Last pass results of a bay (R1, R72). -/
structure PassResult where
  /-- last grant, 0.1 kW -/
  grant : Nat
  /-- late (R59) -/
  late : Bool
  /-- at-risk (R61) -/
  atRisk : Bool
  /-- below-minimum (R58) -/
  belowMin : Bool
  /-- laxity in minutes, −4095 to 4095 (R62) -/
  laxity : Int
deriving DecidableEq, Repr

/-- The session-only fields of a bay record (R1). -/
structure Session where
  /-- ACTIVE, SATISFIED, BARRED or FAULT -/
  phase : Phase
  /-- disposition, with the roster slot when ROSTERED -/
  disp : Disposition
  /-- van tag, 24 bits -/
  tag : Tag
  /-- Pveh, 0.0 to 150.0 kW -/
  pveh : Nat
  /-- delivered energy, 0.0 to 6553.5 kWh -/
  delivered : Nat
  /-- present power, 0.0 to 150.0 kW -/
  power : Nat
  /-- last pass results, absent until the first pass completed in the session -/
  last : Option PassResult
deriving DecidableEq, Repr

/-- State of a bay (R1, R2): UNFITTED, VACANT, or in session. -/
inductive Occupancy where
  | unfitted
  | vacant
  | session (x : Session)
deriving DecidableEq, Repr

/-- One record of the Bay Table (R1). -/
structure Bay where
  /-- state, with the session-only fields while in session -/
  occ : Occupancy
  /-- Pcap, 0.0 to 150.0 kW -/
  pcap : Nat
  /-- published setpoint, 0.0 to 150.0 kW -/
  published : Nat
  /-- published sequence, 0 to 7 -/
  seq : Seq
  /-- confirmed setpoint, 0.0 to 150.0 kW -/
  confirmed : Nat
  /-- unconfirmed round count, 0 to 255, saturating -/
  unconfirmed : Nat
  /-- publication slot, 0 to 3 -/
  slot : Fin 4
  /-- false while the cabinet port is DETACHED -/
  reachable : Bool
  /-- true from rejoin of the cabinet port until the first METER in session -/
  resync : Bool
deriving DecidableEq, Repr

/-- Bay record `b` at power-on (R25): UNFITTED, slot `b` mod 4, reachable true, resync false. -/
def Bay.powerOn (slot : Fin 4) : Bay :=
  { occ := .unfitted, pcap := 0, published := 0, seq := 0, confirmed := 0, unconfirmed := 0,
    slot := slot, reachable := true, resync := false }

/-! ### Roster and Tag Index (chapter 1) -/

/-- State of a roster entry (R5, R6); bay and overdue are present only when PLUGGED. -/
inductive EntryState where
  | waiting
  | plugged (bay : Fin 32) (overdue : Bool)
  | departed
deriving DecidableEq, Repr

/-- One entry of the Van Roster (R5). -/
structure Entry where
  /-- van tag -/
  tag : Tag
  /-- departure, shift minute 0 to 4095 -/
  departure : Nat
  /-- target energy, 0.0 to 400.0 kWh -/
  target : Nat
  /-- service class, 0 to 3 -/
  cls : Nat
  /-- barred -/
  barred : Bool
  /-- state, with bay and overdue when PLUGGED -/
  state : EntryState
  /-- last session energy, absent until the entry first leaves PLUGGED -/
  lastEnergy : Option Nat
deriving DecidableEq, Repr

/-- The Tag Index (R7): 256 entries and the window start W, 0 to 16. -/
structure TagIndex where
  /-- each entry is empty or holds one roster slot number -/
  slots : Vector (Option (Fin 64)) 256
  /-- W, the window start in force -/
  window : Nat
deriving DecidableEq, Repr

/-- An index rebuild in flight (R9): the requested window start after clamping, and whether it was clamped. The
roster's tags and slots do not change while it runs (R10), so the new index is computed when it ends. -/
structure Rebuild where
  /-- the new window start, 0 to 16 -/
  window : Nat
  /-- the answer will carry CLAMPED -/
  clamped : Bool
deriving DecidableEq, Repr

/-! ### Depot Clock (chapter 2) -/

/-- The Depot Clock (R27). -/
structure Clock where
  /-- shift minute, 0 to 4095 -/
  minute : Nat
  /-- second counter, 0 to 59 -/
  second : Nat
  /-- second fraction, in periods of the 8 MHz clock input: 0 to just under 1 s -/
  fraction : Nat
  /-- the model's own field: a CLOCK SET may have been taken before a minute event that came together with it (R35,
  log 7) -/
  overtaken : Bool
deriving DecidableEq, Repr

/-! ### Envelope Unit (chapter 3) -/

/-- The Envelope Unit (R37). -/
structure Envelope where
  /-- P_site, 0.0 to 6553.5 kW -/
  pSite : Nat
  /-- O, the other load last reported, 0.0 to 6553.5 kW -/
  other : Nat
  /-- load-stale -/
  stale : Bool
  /-- rounds since load report, 0 to 3, saturating -/
  rounds : Nat
  /-- shed in force -/
  shed : Bool
  /-- ramp limit, 0.0 to 6553.5 kW; 0.0 kW is unlimited -/
  ramp : Nat
deriving DecidableEq, Repr

/-! ### Allocator (chapters 4 and 5) -/

/-- Health state of a port (R115). -/
inductive Health where
  | sound
  | warning
  | degraded
  | detached
deriving DecidableEq, Repr

/-- What the snapshot takes for one bay (R55): its record, its cabinet port's health state, its cabinet's freshness
as sampled at this round start, and the roster entry named by its roster slot. DEDUCED (log 17). -/
structure SnapBay where
  /-- the bay record -/
  bay : Bay
  /-- health state of the bay's cabinet port -/
  health : Health
  /-- fresh (true) or stale (false) -/
  fresh : Bool
  /-- the linked roster entry, for bays with disposition ROSTERED -/
  entry : Option Entry
deriving DecidableEq, Repr

/-- The snapshot of a pass (R54, R55). -/
structure Snapshot where
  /-- N, the present minute -/
  now : Nat
  /-- G, the guard margin in minutes -/
  guard : Nat
  /-- Pmin, the smallest non-zero grant -/
  pmin : Nat
  /-- Env, the envelope in force -/
  env : Nat
  /-- the 32 bays -/
  bays : Vector SnapBay 32
deriving DecidableEq, Repr

/-- The Allocator (R53) with the round timer and the early-round request (R77, R78). A pass is in flight exactly
while the snapshot is present (R53). -/
structure Allocator where
  /-- round timer: stopped, or running toward the given number of seconds after the last round start -/
  timer : Option Nat
  /-- the snapshot, present while a pass is in flight -/
  snap : Option Snapshot
  /-- session-change marks, one per bay (R56) -/
  marks : Vector Bool 32
  /-- service order of the last completed pass (R67, R68) -/
  order : List (Fin 32)
  /-- an early-round request is held (R78) -/
  early : Bool
deriving DecidableEq, Repr

/-! ### Publisher (chapter 5) -/

/-- The Publisher (R76). The setpoint board of cabinet c holds the places of bays 8c to 8c + 7, one per outlet. -/
structure Publisher where
  /-- pending increase of each bay: its target, 0.1 kW -/
  pending : Vector (Option Nat) 32
  /-- setpoint boards: the unsent (value, sequence) of each bay's outlet (R89) -/
  board : Vector (Option (Nat × Seq)) 32
  /-- slot budget used, 0.1 kW -/
  used : Nat
  /-- slot times of the present round still to come: slot, and seconds after round start -/
  slotTimes : List (Fin 4 × Nat)
deriving DecidableEq, Repr

/-! ### Settings -/

/-- Settings kept by several blocks: L_r (R77), Pmin and G (R54), the unknown-van policy (R143), the reply limits
of the D-port and S-port (R111). -/
structure Settings where
  /-- round length L_r, 8 to 120 s in steps of 4 s -/
  roundLength : Nat
  /-- Pmin as ALLOCATION SETUP last set it, 0.0 to 50.0 kW -/
  pmin : Nat
  /-- Pmin that governs passes and publications: that of the last entry to RUN or HOLD (R149); until the first one the
  power-on value. DEDUCED (log 24). -/
  pminInForce : Nat
  /-- G, 0 to 240 minutes -/
  guard : Nat
  /-- unknown-van policy: true COURTESY, false REFUSE -/
  courtesy : Bool
  /-- reply limit of the D-port, 6 to 60 bytes -/
  limitD : Nat
  /-- reply limit of the S-port, 6 to 60 bytes -/
  limitS : Nat
deriving DecidableEq, Repr

/-! ### Link ports and Link Health (chapters 6 and 7) -/

/-- A message, inbound or outbound, less its checks (R101, R102): Kind, Unit and payload. Its Length byte is the
number of payload bytes. -/
structure Msg where
  /-- Kind -/
  kind : Byte
  /-- Unit -/
  unit : Byte
  /-- payload bytes -/
  payload : List Byte
deriving DecidableEq, Repr

/-- What an inbound buffer holds (R104): an accepted message, or a payload-failure entry with the Kind and Unit
as received. -/
inductive Item where
  | message (m : Msg)
  | failed (kind unit : Byte)
deriving DecidableEq, Repr

/-- A receiver (R100). In HUNT, the flag says that the HUNT followed a completed message and no character has been
received in it yet: the first one is a framing error. -/
inductive Receiver where
  | hunt (afterComplete : Bool)
  | ready
  | receiving (bytes : List Byte)
deriving DecidableEq, Repr

/-- A transmitter (R110), with the message it is sending. -/
inductive Transmitter where
  | idle
  | gap
  | sending (m : Msg)
deriving DecidableEq, Repr

/-- One link port and its Link Health (R99 to R110, R115). The request handler's state (R105) is a function of
these and of the rebuild in flight: `State.handler`. -/
structure LinkPort where
  /-- receiver -/
  rx : Receiver
  /-- inbound buffers, oldest first, at most two -/
  buffers : List Item
  /-- answer queue, head first, at most eight -/
  queue : List Msg
  /-- transmitter -/
  tx : Transmitter
  /-- error count, 0 to 255 -/
  errors : Nat
  /-- health state -/
  health : Health
  /-- rejoin count, 0 to 16 -/
  rejoin : Nat
deriving DecidableEq, Repr

/-- A port at power-on (R114, R115). -/
def LinkPort.powerOn : LinkPort :=
  { rx := .hunt false, buffers := [], queue := [], tx := .idle, errors := 0, health := .sound, rejoin := 0 }

/-- What Link Health and cabinet freshness hold for one cabinet (R115). -/
structure Cabinet where
  /-- silence timer: stopped, or running toward the given number of seconds after it was last started -/
  silence : Option Nat
  /-- round-end-seen flag -/
  roundEnd : Bool
  /-- stale round count, 0 to 255, saturating -/
  staleRounds : Nat
deriving DecidableEq, Repr

/-- A cabinet at power-on (R115). -/
def Cabinet.powerOn : Cabinet := { silence := none, roundEnd := false, staleRounds := 0 }

/-! ### Notices (chapter 11), pins and straps (chapter 12), modes (chapter 10) -/

/-- A notice set (R164). Code k stands at bit k − 1 of each word. -/
structure NoticeSet where
  /-- pending bits -/
  pending : Mask
  /-- enable bits -/
  enable : Mask
  /-- condition indicators, of the held flags -/
  cond : Mask
deriving DecidableEq, Repr

/-- The General Pin Block (R170), bit n for GPn, and the levels the filters of GP0 and GP1 have recognised
(R173). -/
structure Pins where
  /-- function: 1 DEDICATED, 0 GENERAL -/
  fn : Byte
  /-- direction: 1 output, 0 input -/
  dir : Byte
  /-- output latches -/
  latch : Byte
  /-- recognised level of GP0: true high -/
  gp0 : Bool
  /-- recognised level of GP1: true high -/
  gp1 : Bool
deriving DecidableEq, Repr

/-- The straps as sampled at reset release (R175). DESIGN CHOICE (log 20). -/
structure Straps where
  /-- CABS1:0, cabinets present less one -/
  cabs : BitVec 2
  /-- BAUD1:0, bit-rate code -/
  baud : BitVec 2
deriving DecidableEq, Repr

/-- The operating modes (R156). -/
inductive Mode where
  | configure
  | run
  | hold
deriving DecidableEq, Repr

/-! ### The whole part -/

/-- The state of the part, and the queue of the commands that wait, first in, first out. -/
structure State where
  /-- the model's own field: the commands that wait -/
  pending : List Instr
  /-- RESET is low (R163) -/
  resetLow : Bool
  /-- Strap sampler (R175) -/
  straps : Straps
  /-- Mode Controller: mode (R156) -/
  mode : Mode
  /-- Mode Controller: pending mode (R156) -/
  pendingMode : Option Mode
  /-- Bay Table (R1) -/
  bays : Vector Bay 32
  /-- Van Roster (R5): each slot is free or holds one entry -/
  roster : Vector (Option Entry) 64
  /-- Tag Index (R7) -/
  index : TagIndex
  /-- index rebuild in flight (R9) -/
  rebuild : Option Rebuild
  /-- Depot Clock (R27) -/
  clock : Clock
  /-- Envelope Unit (R37) -/
  env : Envelope
  /-- Allocator (R53) -/
  alloc : Allocator
  /-- Publisher (R76) -/
  pub : Publisher
  /-- settings (R54, R77, R111, R143) -/
  settings : Settings
  /-- link ports and Link Health (R99, R115), in the order D, S, C0, C1, C2, C3 -/
  ports : Vector LinkPort 6
  /-- silence timers and cabinet freshness (R115) -/
  cabinets : Vector Cabinet 4
  /-- the D-set (R164) -/
  dset : NoticeSet
  /-- the S-set (R164) -/
  sset : NoticeSet
  /-- General Pin Block (R170) -/
  pins : Pins
deriving DecidableEq, Repr

/-- No command of this block ends in a fault: the manual describes no stop of the part. -/
inductive Fault where
deriving DecidableEq, Repr

/-- Why a command has no next state. -/
inductive Refusal where
  /-- Raised by an arm of `exec` whose command has no meaning yet; no arm raises it now. Safe: nothing follows. -/
  | notModelled (mnemonic : String)
deriving DecidableEq, Repr

/-- The part right after a reset release that samples the given straps, with the given levels on GP7:0 (R163):
every block at its power-on values (R25, R36, R52, R53, R98, R114, R115, R156, R169, R170). LOAD STALE is the one
condition that stands (R49, R169), so its flag, code 5 of the S-set, is pending. -/
def State.powerOn (cabs baud : BitVec 2) (pins : Byte) : State :=
  { pending := []
    resetLow := false
    straps := { cabs := cabs, baud := baud }
    mode := .configure
    pendingMode := none
    bays := Vector.ofFn fun b => Bay.powerOn ⟨b.val % 4, Nat.mod_lt _ (by decide)⟩
    roster := Vector.replicate 64 none
    index := { slots := Vector.replicate 256 none, window := 0 }
    rebuild := none
    clock := { minute := 0, second := 0, fraction := 0, overtaken := false }
    env := { pSite := 0, other := 0, stale := true, rounds := 3, shed := false, ramp := 0 }
    alloc := { timer := none, snap := none, marks := Vector.replicate 32 false, order := [], early := false }
    pub := { pending := Vector.replicate 32 none, board := Vector.replicate 32 none, used := 0, slotTimes := [] }
    settings := { roundLength := 32, pmin := 40, pminInForce := 40, guard := 15, courtesy := false, limitD := 24, limitS := 24 }
    ports := Vector.replicate 6 LinkPort.powerOn
    cabinets := Vector.replicate 4 Cabinet.powerOn
    dset := { pending := 0, enable := 0, cond := 0 }
    sset := { pending := 0x0010, enable := 0, cond := 0x0010 }
    pins := { fn := 0, dir := 0, latch := 0, gp0 := pins.getLsbD 0, gp1 := pins.getLsbD 1 } }

/-- The part right after reset (R163), at the straps and pin levels of `Config` (log 2). No command waits. -/
def State.reset : State := State.powerOn Config.resetCabs Config.resetBaud Config.resetPins

end Sys2Proof.Machine
end

