-- ==== Sys2Proof/Machine/Operands.lean ====
section
/-!
DEFINITION. Where an operand points: ports, cabinets, outlets and bays (Names in spec/00_scope.md), the Tag Index
entry of a tag (R7), the clamps of the message fields (chapters 8 and 9), and the outlet list of OUTLETS (R129).
-/
namespace Sys2Proof.Machine

/-! ### Bays, cabinets, ports -/

/-- Place of a port in the order D, S, C0, C1, C2, C3 (R112). -/
def portIdx : Port → Fin 6
  | .d => 0
  | .s => 1
  | .c n => ⟨n.val + 2, by omega⟩

/-- The six ports in that order. -/
def allPorts : List Port := [.d, .s, .c 0, .c 1, .c 2, .c 3]

/-- The 32 bays in bay order. -/
def allBays : List (Fin 32) := List.finRange 32

/-- The 64 roster slots in slot order. -/
def allSlots : List (Fin 64) := List.finRange 64

/-- The four cabinets. -/
def allCabinets : List (Fin 4) := List.finRange 4

/-- The eight outlets of a cabinet in outlet order. -/
def allOutlets : List (Fin 8) := List.finRange 8

/-- Cabinet of a bay. -/
def cabinetOf (b : Fin 32) : Fin 4 := ⟨b.val / 8, by omega⟩

/-- Outlet of a bay within its cabinet. -/
def outletOf (b : Fin 32) : Fin 8 := ⟨b.val % 8, by omega⟩

/-- Bay number = 8 × cabinet + outlet. -/
def bayAt (c : Fin 4) (o : Fin 8) : Fin 32 := ⟨8 * c.val + o.val, by omega⟩

/-- The bay an outlet Unit selects on a cabinet's port (R128); the Unit has been checked to be 0 to 7. -/
def bayOfUnit (c : Fin 4) (u : Byte) : Fin 32 := bayAt c ⟨u.toNat % 8, by omega⟩

/-- The eight bays of a cabinet in bay order. -/
def baysOf (c : Fin 4) : List (Fin 32) := allOutlets.map (bayAt c)

/-! ### Tag Index -/

/-- Index entry of a tag under window start `w`: floor(tag / 2^w) modulo 256 (R7). -/
def tagEntry (w : Nat) (t : Tag) : Fin 256 := ⟨t.toNat / 2 ^ w % 256, by omega⟩

/-! ### Clamps -/

/-- Largest Pcap, Pveh, present power and applied value: 150.0 kW (R1, R129, R131, R133, R91). -/
def maxPower : Nat := 1500

/-- Largest shift minute and departure (R12, R31). -/
def lastMinute : Nat := 4095

/-- Largest target energy: 400.0 kWh (R12). -/
def maxTarget : Nat := 4000

/-- Largest Pmin: 50.0 kW (R149). -/
def maxPmin : Nat := 500

/-- Largest guard: 240 minutes (R143). -/
def maxGuard : Nat := 240

/-- Largest window start (R9). -/
def maxWindow : Nat := 16

/-- Round length of an ALLOCATION SETUP: rounded down to a multiple of 4 s, then clamped to 8 to 120 s (R149). -/
def clampRound (n : Nat) : Nat := max 8 (min 120 (n / 4 * 4))

/-- Reply limit: clamped to 6 to 60 (R111). -/
def clampLimit (n : Nat) : Nat := max 6 (min 60 n)

/-! ### The outlet list of OUTLETS -/

/-- The records of an OUTLETS payload: outlet byte and cap (section 6.9). -/
def outletRecords : List Byte → List (Byte × Nat)
  | o :: hi :: lo :: rest => (o, field16 hi lo) :: outletRecords rest
  | _ => []

/-- Checks 1 and 2 of R129: no outlet above 7, no outlet named twice. -/
def outletsOk : List (Byte × Nat) → Bool
  | [] => true
  | (o, _) :: rest => o.toNat < 8 && !(rest.any fun r => r.1 == o) && outletsOk rest

/-- The cap a list gives an outlet, clamped to 150.0 kW (R129, check 3); none when the outlet is not listed. -/
def listedCap (l : List (Byte × Nat)) (o : Fin 8) : Option Nat :=
  (l.find? fun r => r.1.toNat == o.val).map fun r => min maxPower r.2

end Sys2Proof.Machine
end

