-- ==== Sys2Proof/Machine/Flags.lean ====
section
/-!
DEFINITION. The flags of the part: the notice sets with their event and held flags (chapter 11), and the health state
that follows a port's error count (R116).
-/
namespace Sys2Proof.Machine

/-! ### Health state -/

/-- Health state of an error count (R116). -/
def healthOf (errors : Nat) : Health :=
  if errors < 96 then .sound
  else if errors < 128 then .warning
  else if errors < 255 then .degraded
  else .detached

/-! ### Notice flags -/

/-- Flags of the D-set (R164). -/
inductive DFlag where
  | overdue | atRisk | duplicateTag | unknownVan | satisfied | inboundOverrun
deriving DecidableEq, Repr

/-- Flags of the S-set (R164). -/
inductive SFlag where
  | envelopeExceeded | shedActive | linkTrouble | staleCabinet | loadStale | unconfirmedSetpoint
  | outletFault | inboundOverrun
deriving DecidableEq, Repr

/-- Bit k − 1 for code k of the D-set (R164). -/
def DFlag.bit : DFlag → Mask
  | .overdue => 0x0001 | .atRisk => 0x0002 | .duplicateTag => 0x0004 | .unknownVan => 0x0008
  | .satisfied => 0x0010 | .inboundOverrun => 0x0020

/-- Bit k − 1 for code k of the S-set (R164). -/
def SFlag.bit : SFlag → Mask
  | .envelopeExceeded => 0x0001 | .shedActive => 0x0002 | .linkTrouble => 0x0004 | .staleCabinet => 0x0008
  | .loadStale => 0x0010 | .unconfirmedSetpoint => 0x0020 | .outletFault => 0x0040 | .inboundOverrun => 0x0080

/-- The bits that name a flag of the D-set: codes 1 to 6 (R164). -/
def dsetBits : Mask := 0x003F

/-- The bits that name a flag of the S-set: codes 1 to 8 (R164). -/
def ssetBits : Mask := 0x00FF

/-- An event flag becomes pending (R165). -/
def NoticeSet.raise (n : NoticeSet) (bit : Mask) : NoticeSet := { n with pending := n.pending ||| bit }

/-- A held flag's condition is handed over (R166): the indicator follows it; where it begins, the flag becomes
pending; where it ends, pending is unchanged. -/
def NoticeSet.setCond (n : NoticeSet) (bit : Mask) (stands : Bool) : NoticeSet :=
  if stands then
    { n with cond := n.cond ||| bit
             pending := if n.cond &&& bit = 0 then n.pending ||| bit else n.pending }
  else { n with cond := n.cond &&& ~~~bit }

/-- NOTICE CLEAR (R167): every named flag that is not a held flag whose condition stands stops being pending. -/
def NoticeSet.clear (n : NoticeSet) (mask : Mask) : NoticeSet :=
  { n with pending := n.pending &&& ~~~(mask &&& ~~~n.cond) }

/-- NOTICE ENABLE (R167): the mask replaces the enables whole; bits that name no flag of the set are ignored. -/
def NoticeSet.setEnable (n : NoticeSet) (mask bits : Mask) : NoticeSet := { n with enable := mask &&& bits }

/-- The flags that drive the alert line: pending and enabled (R168). -/
def NoticeSet.active (n : NoticeSet) : Mask := n.pending &&& n.enable

/-- At least one flag is pending and enabled (R168). -/
def NoticeSet.alert (n : NoticeSet) : Bool := n.active != 0

/-- Notice code: the lowest code among the flags both pending and enabled, or 0 (R168). -/
def NoticeSet.code (n : NoticeSet) : Nat :=
  match (List.range 8).find? (fun k => n.active.getLsbD k) with
  | some k => k + 1
  | none => 0

end Sys2Proof.Machine
end

