-- ==== Sys2Proof/Machine/Kinds.lean ====
section
/-!
DEFINITION. The message kinds of the table of section 6.9: code, direction and ports, request or report, Unit and
Length, and the checks 3 to 5 of the request handler that read them (R106).
-/
namespace Sys2Proof.Machine

/-- The message kinds of section 6.9. -/
inductive Kind where
  | keepalive | outlets | plug | unplug | meter | roundEnd | applied | outletFault
  | rosterPut | rosterDrop | clockSet | vanPolicy | tagWindow
  | read | replyLimit | noticeEnable | noticeClear
  | siteLimit | loadReport | rampLimit | modeRequest | restart | releaseCabinet | allocationSetup | slotAssign
  | pinSetup | pinWrite
  | answer | data | setpoint
deriving DecidableEq, Repr

/-- Code of a kind (section 6.9). -/
def Kind.code : Kind → Byte
  | .keepalive => 0x01 | .outlets => 0x10 | .plug => 0x11 | .unplug => 0x12 | .meter => 0x13
  | .roundEnd => 0x14 | .applied => 0x15 | .outletFault => 0x16
  | .rosterPut => 0x20 | .rosterDrop => 0x21 | .clockSet => 0x22 | .vanPolicy => 0x23 | .tagWindow => 0x24
  | .read => 0x30 | .replyLimit => 0x31 | .noticeEnable => 0x32 | .noticeClear => 0x33
  | .siteLimit => 0x40 | .loadReport => 0x41 | .rampLimit => 0x42 | .modeRequest => 0x43 | .restart => 0x44
  | .releaseCabinet => 0x45 | .allocationSetup => 0x46 | .slotAssign => 0x47 | .pinSetup => 0x48
  | .pinWrite => 0x49
  | .answer => 0x80 | .data => 0x81 | .setpoint => 0x90

/-- The kinds, in the order of the table. -/
def Kind.all : List Kind :=
  [.keepalive, .outlets, .plug, .unplug, .meter, .roundEnd, .applied, .outletFault, .rosterPut, .rosterDrop, .clockSet,
   .vanPolicy, .tagWindow, .read, .replyLimit, .noticeEnable, .noticeClear, .siteLimit, .loadReport, .rampLimit,
   .modeRequest, .restart, .releaseCabinet, .allocationSetup, .slotAssign, .pinSetup, .pinWrite,
   .answer, .data, .setpoint]

/-- The kind a code names, if the table has it. -/
def Kind.ofCode (b : Byte) : Option Kind := Kind.all.find? fun k => k.code == b

/-- Marked outbound in the table: ANSWER, DATA, SETPOINT. -/
def Kind.outbound : Kind → Bool
  | .answer | .data | .setpoint => true
  | _ => false

/-- Marked a request in the table (R107). -/
def Kind.isRequest : Kind → Bool
  | .keepalive | .meter | .roundEnd | .applied => false
  | .answer | .data | .setpoint => false
  | _ => true

/-- A cabinet port. -/
def portIsCabinet : Port → Bool
  | .c _ => true
  | _ => false

/-- The table accepts the kind inbound on the port. -/
def Kind.accepts (k : Kind) (p : Port) : Bool :=
  match k with
  | .keepalive => true
  | .outlets | .plug | .unplug | .meter | .roundEnd | .applied | .outletFault => portIsCabinet p
  | .rosterPut | .rosterDrop | .clockSet | .vanPolicy | .tagWindow => p == .d
  | .read | .replyLimit | .noticeEnable | .noticeClear => p == .d || p == .s
  | .siteLimit | .loadReport | .rampLimit | .modeRequest | .restart | .releaseCabinet | .allocationSetup
  | .slotAssign | .pinSetup | .pinWrite => p == .s
  | .answer | .data | .setpoint => false

/-- The Length the table gives the kind (R106, check 4); for OUTLETS, 0 to 24 and a multiple of 3. -/
def Kind.lengthOk (k : Kind) (n : Nat) : Bool :=
  match k with
  | .outlets => n ≤ 24 && n % 3 == 0
  | .keepalive | .unplug | .roundEnd | .restart | .releaseCabinet => n == 0
  | .plug => n == 5
  | .meter => n == 10
  | .applied | .rosterDrop | .clockSet | .allocationSetup => n == 3
  | .outletFault | .tagWindow | .read | .replyLimit | .modeRequest | .slotAssign | .pinWrite => n == 1
  | .rosterPut => n == 9
  | .vanPolicy | .noticeEnable | .noticeClear | .siteLimit | .loadReport | .rampLimit | .pinSetup => n == 2
  | .answer | .data | .setpoint => false

/-- The Unit the table gives the kind (R106, check 5): 0xFF, outlet 0 to 7, bay 0 to 31, cabinet 0 to 3. For READ
the Unit is checked with the item (R112). -/
def Kind.unitOk (k : Kind) (u : Byte) : Bool :=
  match k with
  | .plug | .unplug | .meter | .applied | .outletFault => u.toNat < 8
  | .slotAssign => u.toNat < 32
  | .releaseCabinet => u.toNat < 4
  | .read => true
  | _ => u == 0xFF

/-- Result flags of an ANSWER (section 6.9). -/
inductive Flag where
  | payloadCheck | wrongPort | unknownKind | badLength | badUnit | wrongMode | collision
  | rosterFull | inUse | notFound | limitTooSmall | wrongState | clamped
deriving DecidableEq, Repr

/-- Bit of a flag in the result set (section 6.9). -/
def Flag.bit : Flag → Nat
  | .payloadCheck => 0 | .wrongPort => 1 | .unknownKind => 2 | .badLength => 3 | .badUnit => 4 | .wrongMode => 5
  | .collision => 6 | .rosterFull => 7 | .inUse => 8 | .notFound => 9 | .limitTooSmall => 10 | .wrongState => 11
  | .clamped => 12

/-- The result set holding one flag alone. -/
def Flag.result (f : Flag) : Mask := (1 : Mask) <<< f.bit

/-- The result set of a request that was acted on: OK, with CLAMPED when a field was clamped (R108). -/
def okResult (clamped : Bool) : Mask := if clamped then Flag.clamped.result else 0

/-- What the handler checks 3 to 5 of R106 say of a message of kind `k` on port `p`. -/
inductive Verdict where
  /-- handed to the rule of its Kind -/
  | pass
  /-- answered with the flag alone -/
  | refuse (f : Flag)
  /-- a report: dropped without answer or effect -/
  | drop
deriving DecidableEq, Repr

/-- A failed check: a request is answered with the flag alone, a report is dropped (R106). -/
def Kind.fail (k : Kind) (f : Flag) : Verdict := if k.isRequest then .refuse f else .drop

/-- Checks 3 to 5 of R106, in their order. -/
def Kind.check (k : Kind) (p : Port) (m : Msg) : Verdict :=
  if !k.accepts p then k.fail .wrongPort
  else if !k.lengthOk m.payload.length then k.fail .badLength
  else if !k.unitOk m.unit then k.fail .badUnit
  else .pass

end Sys2Proof.Machine
end

