-- ==== Sys2Proof/Machine/Ops.lean ====
section
/-!
DEFINITION. The named operations over the state: reading and writing one record of each block, the derived quantities
(allowance, envelope), the held conditions, the publication of a setpoint, the start and end of a session, and the
handling of one buffered item. Every meaning goes through these.
-/
namespace Sys2Proof.Machine

/-! ### One record of a block -/

/-- Bay record `b`. -/
def State.bay (s : State) (b : Fin 32) : Bay := s.bays[b]

/-- Write bay record `b`. -/
def State.setBay (s : State) (b : Fin 32) (x : Bay) : State := { s with bays := s.bays.set b.val x }

/-- Write every bay record, each from its own former value. -/
def State.mapBays (s : State) (f : Fin 32 → Bay → Bay) : State := { s with bays := Vector.ofFn fun b => f b (s.bay b) }

/-- Roster slot `k`: free or an entry. -/
def State.entry (s : State) (k : Fin 64) : Option Entry := s.roster[k]

/-- Write roster slot `k`. -/
def State.setEntry (s : State) (k : Fin 64) (x : Option Entry) : State := { s with roster := s.roster.set k.val x }

/-- Write every roster slot, each from its own former value. -/
def State.mapEntries (s : State) (f : Entry → Entry) : State :=
  { s with roster := Vector.ofFn fun k => (s.entry k).map f }

/-- Tag Index entry `i`. -/
def State.indexAt (s : State) (i : Fin 256) : Option (Fin 64) := s.index.slots[i]

/-- Write Tag Index entry `i`. -/
def State.setIndex (s : State) (i : Fin 256) (x : Option (Fin 64)) : State :=
  { s with index := { s.index with slots := s.index.slots.set i.val x } }

/-- Link port `p`. -/
def State.port (s : State) (p : Port) : LinkPort := s.ports[portIdx p]

/-- Write link port `p`. -/
def State.setPort (s : State) (p : Port) (x : LinkPort) : State := { s with ports := s.ports.set (portIdx p).val x }

/-- Write every link port, each from its own former value. -/
def State.mapPorts (s : State) (f : LinkPort → LinkPort) : State := { s with ports := Vector.ofFn fun i => f s.ports[i] }

/-- Cabinet record `c`. -/
def State.cabinet (s : State) (c : Fin 4) : Cabinet := s.cabinets[c]

/-- Write cabinet record `c`. -/
def State.setCabinet (s : State) (c : Fin 4) (x : Cabinet) : State := { s with cabinets := s.cabinets.set c.val x }

/-- Write every cabinet record, each from its own former value. -/
def State.mapCabinets (s : State) (f : Fin 4 → Cabinet → Cabinet) : State :=
  { s with cabinets := Vector.ofFn fun c => f c (s.cabinet c) }

/-- Place of bay `b`'s outlet on its cabinet's setpoint board (R89). -/
def State.board (s : State) (b : Fin 32) : Option (Nat × Seq) := s.pub.board[b]

/-- Write the board place of bay `b`'s outlet. -/
def State.setBoard (s : State) (b : Fin 32) (x : Option (Nat × Seq)) : State :=
  { s with pub := { s.pub with board := s.pub.board.set b.val x } }

/-- Pending increase of bay `b` (R76). -/
def State.pendingInc (s : State) (b : Fin 32) : Option Nat := s.pub.pending[b]

/-- Write the pending increase of bay `b`. -/
def State.setPendingInc (s : State) (b : Fin 32) (x : Option Nat) : State :=
  { s with pub := { s.pub with pending := s.pub.pending.set b.val x } }

/-- Discard every pending increase (R85). -/
def State.dropIncreases (s : State) : State := { s with pub := { s.pub with pending := Vector.replicate 32 none } }

/-- Session-change mark of bay `b` (R56). -/
def State.marked (s : State) (b : Fin 32) : Bool := s.alloc.marks[b]

/-- A session of bay `b` starts or ends, or its outlet is fitted or unfitted: the bay is marked while a pass is in
flight (R56). -/
def State.mark (s : State) (b : Fin 32) : State :=
  if s.alloc.snap.isSome then { s with alloc := { s.alloc with marks := s.alloc.marks.set b.val true } } else s

/-! ### Derived quantities -/

/-- The port's line is served: the D-port, the S-port, and the ports of cabinets strapped present (R175). -/
def State.present (s : State) (p : Port) : Bool :=
  match p with
  | .c n => n.val ≤ s.straps.cabs.toNat
  | _ => true

/-- Allowance of a bay: the larger of its published and confirmed setpoints (R3). -/
def Bay.allowance (x : Bay) : Nat := max x.published x.confirmed

/-- The session of a bay, if it is in session. -/
def Bay.session (x : Bay) : Option Session :=
  match x.occ with
  | .session y => some y
  | _ => none

/-- In session: ACTIVE, SATISFIED, BARRED or FAULT (R1). -/
def Bay.inSession (x : Bay) : Bool := x.session.isSome

/-- Live Plim of a bay: the lesser of Pveh and Pcap (R58, R86); 0 out of session. -/
def Bay.plim (x : Bay) : Nat :=
  match x.session with
  | some y => min y.pveh x.pcap
  | none => 0

/-- Total allowance: the sum over all 32 bays (R3). -/
def State.total (s : State) : Nat := (allBays.map fun b => (s.bay b).allowance).sum

/-- Effective other load O_eff (R41). -/
def Envelope.effective (e : Envelope) : Nat := if e.stale then min e.pSite (e.other + e.pSite / 8) else e.other

/-- Base envelope Env_base: P_site − O_eff when positive, and 0 otherwise (R41). -/
def Envelope.base (e : Envelope) : Nat := e.pSite - e.effective

/-- Env, the envelope in force (R43). -/
def Envelope.inForce (e : Envelope) : Nat := if e.shed then e.base / 2 else e.base

/-- GPn is DEDICATED (R170). -/
def State.dedicated (s : State) (n : Nat) : Bool := s.pins.fn.getLsbD n

/-! ### Notices and held conditions -/

/-- An event flag of the D-set becomes pending (R165). -/
def State.raiseD (s : State) (f : DFlag) : State := { s with dset := s.dset.raise f.bit }

/-- An event flag of the S-set becomes pending (R165). -/
def State.raiseS (s : State) (f : SFlag) : State := { s with sset := s.sset.raise f.bit }

/-- OVERDUE stands: at least one roster entry has overdue 1 (R33). -/
def State.overdueStands (s : State) : Bool :=
  allSlots.any fun k =>
    match s.entry k with
    | some e => match e.state with
      | .plugged _ o => o
      | _ => false
    | none => false

/-- AT RISK stands: at least one bay in session has at-risk set in its last pass results (R73). -/
def State.atRiskStands (s : State) : Bool :=
  allBays.any fun b =>
    match (s.bay b).session with
    | some x => match x.last with
      | some r => r.atRisk
      | none => false
    | none => false

/-- ENVELOPE EXCEEDED stands: the total allowance exceeds Env (R48). -/
def State.exceededStands (s : State) : Bool := s.env.inForce < s.total

/-- LINK TROUBLE stands: any of the six ports is not SOUND (R124). -/
def State.linkTroubleStands (s : State) : Bool := allPorts.any fun p => (s.port p).health != .sound

/-- STALE CABINET stands: any cabinet strapped present has a stale round count of 3 or more (R124). -/
def State.staleCabinetStands (s : State) : Bool :=
  allCabinets.any fun c => s.present (.c c) && 3 ≤ (s.cabinet c).staleRounds

/-- UNCONFIRMED SETPOINT stands: at least one bay has an unconfirmed round count of 2 or more (R80). -/
def State.unconfirmedStands (s : State) : Bool := allBays.any fun b => 2 ≤ (s.bay b).unconfirmed

/-- OVERDUE is handed to the Notice Unit (R33). -/
def State.evalOverdue (s : State) : State := { s with dset := s.dset.setCond DFlag.overdue.bit s.overdueStands }

/-- AT RISK is evaluated (R73). -/
def State.evalAtRisk (s : State) : State := { s with dset := s.dset.setCond DFlag.atRisk.bit s.atRiskStands }

/-- ENVELOPE EXCEEDED is evaluated (R48). -/
def State.evalExceeded (s : State) : State :=
  { s with sset := s.sset.setCond SFlag.envelopeExceeded.bit s.exceededStands }

/-- SHED ACTIVE is handed over (R49). -/
def State.evalShed (s : State) : State := { s with sset := s.sset.setCond SFlag.shedActive.bit s.env.shed }

/-- LINK TROUBLE is evaluated (R124). -/
def State.evalLinkTrouble (s : State) : State :=
  { s with sset := s.sset.setCond SFlag.linkTrouble.bit s.linkTroubleStands }

/-- STALE CABINET is evaluated (R124). -/
def State.evalStaleCabinet (s : State) : State :=
  { s with sset := s.sset.setCond SFlag.staleCabinet.bit s.staleCabinetStands }

/-- LOAD STALE is handed over (R49). -/
def State.evalLoadStale (s : State) : State := { s with sset := s.sset.setCond SFlag.loadStale.bit s.env.stale }

/-- UNCONFIRMED SETPOINT is evaluated (R80). -/
def State.evalUnconfirmed (s : State) : State :=
  { s with sset := s.sset.setCond SFlag.unconfirmedSetpoint.bit s.unconfirmedStands }

/-! ### Transmission -/

/-- The port has something to send: a board entry of its cabinet, or a queued reply (R110). -/
def State.hasToSend (s : State) (p : Port) : Bool :=
  !(s.port p).queue.isEmpty ||
    match p with
    | .c n => (baysOf n).any fun b => (s.board b).isSome
    | _ => false

/-- An IDLE transmitter with something to send enters GAP; that of a DETACHED port stays IDLE (R110). -/
def State.kick (s : State) (p : Port) : State :=
  if (s.port p).tx = .idle ∧ (s.port p).health ≠ .detached ∧ s.hasToSend p = true then
    s.setPort p { s.port p with tx := .gap }
  else s

/-- A reply joins the tail of the port's answer queue (R109); a reply formed while the port is DETACHED is discarded
as it is formed (R118). -/
def State.reply (s : State) (p : Port) (m : Msg) : State :=
  if (s.port p).health = .detached then s
  else (s.setPort p { s.port p with queue := (s.port p).queue ++ [m] }).kick p

/-! ### Publication -/

/-- Steps 1 to 3 of a publication (R88): the sequence advances modulo 8, the published setpoint takes the value, and
the pair is placed on the setpoint board. -/
def State.issue (s : State) (b : Fin 32) (v : Nat) : State :=
  let x := s.bay b
  ((s.setBay b { x with published := v, seq := x.seq + 1 }).setBoard b (some (v, x.seq + 1))).kick (.c (cabinetOf b))

/-- A publication (R88), made for a reachable bay. DEDUCED (log 16). -/
def State.publish (s : State) (b : Fin 32) (v : Nat) : State :=
  if (s.bay b).reachable then (s.issue b v).evalExceeded else s

/-- The vehicle-limit publication (R93): when Plim lies below the published setpoint, Plim is published, or 0.0 kW when
Plim is less than the Pmin that governs publications (R149): in CONFIGURE that of the last entry to RUN or HOLD. DEDUCED
(log 24). -/
def State.limitVehicle (s : State) (b : Fin 32) : State :=
  let x := s.bay b
  if x.inSession = true ∧ x.plim < x.published then
    s.publish b (if s.settings.pminInForce ≤ x.plim then x.plim else 0)
  else s

/-- Confirmation of the published setpoint (R90): a carried sequence equal to the published one makes the confirmed
setpoint take the published setpoint; any other is ignored. -/
def State.confirm (s : State) (b : Fin 32) (seq : Byte) : State :=
  let x := s.bay b
  if x.inSession = true ∧ seq.toNat = x.seq.toNat then
    (s.setBay b { x with confirmed := x.published, unconfirmed := 0 }).evalUnconfirmed.evalExceeded
  else s

/-- Steps 1 to 4 of a resync METER (R91): the applied value, clamped to 150.0 kW, becomes both setpoints, the applied
sequence modulo 8 the published sequence, the board place becomes empty and resync false. -/
def State.adopt (s : State) (b : Fin 32) (value : Nat) (seq : Byte) : State :=
  let x := s.bay b
  let v := min maxPower value
  ((s.setBay b { x with published := v, confirmed := v, seq := BitVec.ofNat 3 seq.toNat, unconfirmed := 0,
                        resync := false }).setBoard b none).evalUnconfirmed.evalExceeded

/-- Step 6 of a resync METER (R91): in CONFIGURE or HOLD, when the published setpoint is now above the value published
before, that earlier value is published. DESIGN CHOICE (log 23): it is published as it stands, also where it is an adopted
value below Pmin, against "0.0 kW or at least Pmin" of R88 and R140. -/
def State.restore (s : State) (b : Fin 32) (earlier : Nat) : State :=
  if s.mode ≠ .run ∧ earlier < (s.bay b).published then s.publish b earlier else s

/-- A resync METER's applied fields (R91). -/
def State.resync (s : State) (b : Fin 32) (value : Nat) (seq : Byte) : State :=
  ((s.adopt b value seq).limitVehicle b).restore b (s.bay b).published

/-! ### Sessions -/

/-- The entry leaves PLUGGED (R6): WAITING when its departure lies above the shift minute, DEPARTED otherwise; last
session energy takes the delivered energy; bay and overdue become absent. -/
def Entry.leave (e : Entry) (minute energy : Nat) : Entry :=
  { e with state := if minute < e.departure then .waiting else .departed, lastEnergy := some energy }

/-- Roster slot `k`'s entry leaves PLUGGED, and OVERDUE is evaluated (R6, R33). -/
def State.leavePlugged (s : State) (k : Fin 64) (energy : Nat) : State :=
  match s.entry k with
  | some e => (s.setEntry k (some (e.leave s.clock.minute energy))).evalOverdue
  | none => s

/-- The bay record at session end (R23, part 3): VACANT, setpoints, sequence and count 0; Pcap, slot, reachable and
resync kept. -/
def Bay.ended (x : Bay) : Bay :=
  { x with occ := .vacant, published := 0, seq := 0, confirmed := 0, unconfirmed := 0 }

/-- The conditions that a bay's session start or end can change (R48, R73, R80). -/
def State.evalSession (s : State) : State := s.evalAtRisk.evalUnconfirmed.evalExceeded

/-- Session end (R23), in its order: roster, Publisher, bay record. A bay not in session is unchanged. -/
def State.endSession (s : State) (b : Fin 32) : State :=
  match (s.bay b).session with
  | none => s
  | some x =>
    let s1 := match x.disp with
      | .rostered k => s.leavePlugged k x.delivered
      | _ => s
    ((((s1.setBoard b none).setPendingInc b none).setBay b (s.bay b).ended).mark b).evalSession

/-- The entry a plugged tag matches (R17): the index entry of the tag holds a slot whose entry has that tag and is not
DEPARTED. -/
def State.lookup (s : State) (t : Tag) : Option (Fin 64 × Entry) :=
  match s.indexAt (tagEntry s.index.window t) with
  | none => none
  | some k =>
    match s.entry k with
    | none => none
    | some e => if e.tag = t ∧ e.state ≠ .departed then some (k, e) else none

/-- The entry is PLUGGED at a bay other than `b` (R17). -/
def Entry.pluggedElsewhere (e : Entry) (b : Fin 32) : Bool :=
  match e.state with
  | .plugged b' _ => b' != b
  | _ => false

/-- Tag lookup of a plug-in at bay `b` (R17): the disposition, with its effects on the entry and the D-set. -/
def State.resolve (s : State) (b : Fin 32) (t : Tag) : State × Disposition :=
  match s.lookup t with
  | none => (s.raiseD .unknownVan, if s.settings.courtesy then .courtesy else .refused)
  | some (k, e) =>
    if e.barred then (s, .refused)
    else if e.pluggedElsewhere b then (s.raiseD .duplicateTag, .duplicate)
    else ((s.setEntry k (some { e with state := .plugged b false })).evalOverdue, .rostered k)

/-- State of a bay whose session starts with the given disposition (R18). -/
def Disposition.startPhase : Disposition → Phase
  | .rostered _ => .active
  | .courtesy => .active
  | .refused => .barred
  | .duplicate => .barred

/-- The bay record at session start (R18); Pcap, slot, reachable and resync keep their values. -/
def Bay.started (x : Bay) (d : Disposition) (t : Tag) (pveh : Nat) : Bay :=
  { x with
    occ := .session { phase := d.startPhase, disp := d, tag := t, pveh := pveh, delivered := 0, power := 0, last := none }
    published := 0, seq := 0, confirmed := 0, unconfirmed := 0 }

/-- Session start at bay `b` after the tag lookup (R18). -/
def State.startSession (s : State) (b : Fin 32) (t : Tag) (pveh : Nat) : State × Disposition :=
  let r := s.resolve b t
  (((r.1.setBay b ((r.1.bay b).started r.2 t pveh)).mark b).evalSession, r.2)

/-! ### SATISFIED -/

/-- Target energy of the entry a bay is linked to. -/
def State.targetOf (s : State) (d : Disposition) : Option Nat :=
  match d with
  | .rostered k => (s.entry k).map (·.target)
  | _ => none

/-- An ACTIVE ROSTERED bay whose delivered energy is at least its entry's target becomes SATISFIED, with the SATISFIED
notice (R21). -/
def State.satisfy (s : State) (b : Fin 32) : State :=
  match (s.bay b).session with
  | none => s
  | some x =>
    match s.targetOf x.disp with
    | none => s
    | some t =>
      if x.phase = .active ∧ t ≤ x.delivered then
        (s.setBay b { s.bay b with occ := .session { x with phase := .satisfied } }).raiseD .satisfied
      else s

/-- A SATISFIED bay whose entry's target is now greater than its delivered energy becomes ACTIVE (R21). -/
def State.unsatisfy (s : State) (b : Fin 32) : State :=
  match (s.bay b).session with
  | none => s
  | some x =>
    match s.targetOf x.disp with
    | none => s
    | some t =>
      if x.phase = .satisfied ∧ x.delivered < t then
        s.setBay b { s.bay b with occ := .session { x with phase := .active } }
      else s

/-! ### Departure evaluation -/

/-- One entry at a departure evaluation (R32). -/
def Entry.depart (e : Entry) (minute : Nat) : Entry :=
  if e.departure ≤ minute then
    match e.state with
    | .waiting => { e with state := .departed }
    | .plugged b _ => { e with state := .plugged b true }
    | .departed => e
  else e

/-- A departure evaluation (R32, R33): one evaluation over every roster slot. -/
def State.evaluateDepartures (s : State) : State := (s.mapEntries fun e => e.depart s.clock.minute).evalOverdue

/-- A minute event (R28, R30): the shift minute advances and holds at 4095; a departure evaluation follows. -/
def State.minuteTick (s : State) : State :=
  ({ s with clock := { s.clock with minute := min lastMinute (s.clock.minute + 1) } }).evaluateDepartures

/-! ### Handling one buffered item -/

/-- The three states of a request handler (R105). -/
inductive Handler where
  | ready
  | stalled
  | held
deriving DecidableEq, Repr

/-- State of port `p`'s request handler (R105): HELD on the D-port during an index rebuild; STALLED while an item waits
and the answer queue has no free place; READY otherwise. DEDUCED (log 19). -/
def State.handler (s : State) (p : Port) : Handler :=
  if p = .d ∧ s.rebuild.isSome then .held
  else if (s.port p).buffers ≠ [] ∧ 8 ≤ (s.port p).queue.length then .stalled
  else .ready

/-- The item port `p`'s handler can take now (R105): the oldest, while the handler is READY and RESET is high. -/
def State.offered (s : State) (p : Port) : Option Item :=
  if s.resetLow then none
  else if s.handler p = .ready then (s.port p).buffers.head?
  else none

/-- The handler takes the oldest item: its buffer becomes free (R104). -/
def State.take (s : State) (p : Port) : State := s.setPort p { s.port p with buffers := (s.port p).buffers.tail }

/-- An ANSWER (R108): the Unit echoed, then the request's Kind, the result set high byte first, and for a PLUG
answered OK the disposition. -/
def answerTo (kind unit : Byte) (result : Mask) (extra : List Byte) : Msg :=
  { kind := Kind.answer.code, unit := unit, payload := kind :: (byte2 result.toNat ++ extra) }

/-- The ANSWER to a request `m` with the given result set. -/
def Msg.answer (m : Msg) (result : Mask) : Msg := answerTo m.kind m.unit result []

/-- A reply, when there is one, is queued. -/
def State.replyWith (s : State) (p : Port) (r : Option Msg) : State :=
  match r with
  | some m => s.reply p m
  | none => s

/-- Port `p`'s handler takes an item of kind `k` and handles it whole (R105, R106): checks 3 to 5, then the rule of the
kind, `body`, which gives the effects and the reply. Where no item of kind `k` is offered, the event does not
come about and nothing changes (log 3). -/
def State.handle (s : State) (k : Kind) (p : Port) (body : Msg → State → State × Option Msg) : State :=
  match s.offered p with
  | some (.message m) =>
    if m.kind = k.code then
      match k.check p m with
      | .pass => let r := body m (s.take p); r.1.replyWith p r.2
      | .refuse f => (s.take p).reply p (m.answer f.result)
      | .drop => s.take p
    else s
  | _ => s

/-- The reply of a request acted on with the given clamping (R106). -/
def done (m : Msg) (s : State) (clamped : Bool) : State × Option Msg := (s, some (m.answer (okResult clamped)))

/-- The reply of a request refused with one flag; nothing changes (R106). -/
def refuse (m : Msg) (s : State) (f : Flag) : State × Option Msg := (s, some (m.answer f.result))

end Sys2Proof.Machine
end

