-- ==== Sys2Proof/Machine/Alloc.lean ====
section
/-!
DEFINITION. The arithmetic of a pass (chapter 4) on its snapshot: the figures of one bay, the three classes, the
service order, and the two phases. Exact integers in raw units (0.1 kW, 0.1 kWh, minutes); T and laxity are signed.
-/
namespace Sys2Proof.Machine

/-- What the snapshot took of bay `b`. -/
def Snapshot.at (sn : Snapshot) (b : Fin 32) : SnapBay := sn.bays[b]

/-- The least integer not below a / b ("ceil", Conventions of spec/00_scope.md). -/
def ceilDiv (a b : Nat) : Nat := (a + b - 1) / b

/-- Clamp a laxity to −4095 to +4095 (R62). -/
def clampLaxity (x : Int) : Int := max (-4095) (min 4095 x)

/-- The figures derived for one bay (R57). -/
structure Figures where
  plim : Nat
  belowMin : Bool
  late : Bool
  atRisk : Bool
  demand : Nat
  laxity : Int
deriving DecidableEq, Repr

/-! ### Per-bay derivation (R57 to R62) -/

/-- Plim for the pass (R58): the lesser of Pveh and Pcap, capped at the allowance for an ACTIVE bay of a DEGRADED
port. -/
def SnapBay.plim (x : SnapBay) (y : Session) : Nat :=
  let base := min y.pveh x.bay.pcap
  if x.health = .degraded ∧ y.phase = .active then min base x.bay.allowance else base

/-- Below-minimum (R58). -/
def belowMinimum (pmin plim : Nat) : Bool := plim < pmin || plim == 0

/-- Time remaining T = D − G − N, signed (R59). -/
def Snapshot.remaining (sn : Snapshot) (e : Entry) : Int := (e.departure : Int) - sn.guard - sn.now

/-- Energy shortfall E_need = E_tgt − E_del (R59). -/
def need (e : Entry) (y : Session) : Nat := e.target - y.delivered

/-- Required power P_req (R60): ceil(60 × E_need / T) while T > 0, Plim otherwise. -/
def required (t : Int) (eNeed plim : Nat) : Nat := if 0 < t then ceilDiv (60 * eNeed) t.toNat else plim

/-- Demand Dm (R61): the lesser of P_req and Plim, raised to Pmin when it lies strictly between 0 and Pmin.
DEDUCED (log 15). -/
def demandOf (pmin pReq plim : Nat) : Nat :=
  let d := min pReq plim
  if 0 < d ∧ d < pmin then pmin else d

/-- Laxity Lx (R62). -/
def laxityOf (t : Int) (eNeed plim : Nat) : Int :=
  if plim = 0 then -4095 else clampLaxity (t - ceilDiv (60 * eNeed) plim)

/-- The figures of a rostered ACTIVE bay linked to entry `e` (R57, first row). -/
def Snapshot.activeFigures (sn : Snapshot) (plim : Nat) (y : Session) (e : Entry) : Figures :=
  let t := sn.remaining e
  let pReq := required t (need e y) plim
  { plim := plim, belowMin := belowMinimum sn.pmin plim, late := t ≤ 0, atRisk := plim < pReq,
    demand := demandOf sn.pmin pReq plim, laxity := laxityOf t (need e y) plim }

/-- The figures of a rostered SATISFIED bay linked to entry `e` (R57, second row). -/
def Snapshot.satisfiedFigures (sn : Snapshot) (plim : Nat) (e : Entry) : Figures :=
  { plim := plim, belowMin := belowMinimum sn.pmin plim, late := sn.remaining e ≤ 0, atRisk := false, demand := 0,
    laxity := clampLaxity (sn.remaining e) }

/-- The figures of a bay without a deadline: ACTIVE COURTESY, BARRED and FAULT (R57, third and fourth row). -/
def Snapshot.plainFigures (sn : Snapshot) (plim : Nat) : Figures :=
  { plim := plim, belowMin := belowMinimum sn.pmin plim, late := false, atRisk := false, demand := 0, laxity := 0 }

/-- The figures of bay `b`, by its state and disposition in the snapshot (R57); none out of session. -/
def Snapshot.figures (sn : Snapshot) (b : Fin 32) : Option Figures :=
  let x := sn.at b
  match x.bay.session with
  | none => none
  | some y =>
    let plim := x.plim y
    match y.phase, x.entry with
    | .active, some e => some (sn.activeFigures plim y e)
    | .satisfied, some e => some (sn.satisfiedFigures plim e)
    | _, _ => some (sn.plainFigures plim)

/-! ### Classes (R63 to R66) -/

/-- Frozen (R63): in session, and its cabinet port DETACHED or its cabinet stale. -/
def Snapshot.frozen (sn : Snapshot) (b : Fin 32) : Bool :=
  let x := sn.at b
  x.bay.inSession && (x.health == .detached || !x.fresh)

/-- Eligible (R64): ACTIVE, port not DETACHED, cabinet fresh, not below-minimum. -/
def Snapshot.eligible (sn : Snapshot) (b : Fin 32) : Bool :=
  let x := sn.at b
  match x.bay.session with
  | none => false
  | some y => y.phase == .active && x.health != .detached && x.fresh && !belowMinimum sn.pmin (x.plim y)

/-- Reserve Rv (R66): the sum of the allowances of the frozen bays. -/
def Snapshot.reserve (sn : Snapshot) : Nat :=
  ((allBays.filter sn.frozen).map fun b => (sn.at b).bay.allowance).sum

/-- Available amount A = Env − Rv when positive, and 0 otherwise (R66). -/
def Snapshot.available (sn : Snapshot) : Nat := sn.env - sn.reserve

/-! ### Service order (R67) -/

/-- Disposition of a bay in the snapshot is ROSTERED (true) or any other (false). -/
def SnapBay.isRostered (x : SnapBay) : Bool :=
  match x.bay.session with
  | some y => match y.disp with
    | .rostered _ => true
    | _ => false
  | none => false

/-- The sorting keys of a rostered bay: class, laxity, departure (R67). -/
def Snapshot.keys (sn : Snapshot) (b : Fin 32) : Nat × Int × Nat :=
  let x := sn.at b
  let lx := match sn.figures b with
    | some f => f.laxity
    | none => 0
  match x.entry with
  | some e => (e.cls, lx, e.departure)
  | none => (0, lx, 0)

/-- Bay `a` stands before bay `b`, or is `b`: class, laxity, departure, bay number, all ascending, each later key
deciding between bays equal on all earlier ones (R67). -/
def Snapshot.before (sn : Snapshot) (a b : Fin 32) : Bool :=
  let x := sn.keys a
  let y := sn.keys b
  x.1 < y.1 || (x.1 == y.1 && (x.2.1 < y.2.1 || (x.2.1 == y.2.1 &&
    (x.2.2 < y.2.2 || (x.2.2 == y.2.2 && a ≤ b)))))

/-- Rostered part of the service order (R67, part 1). -/
def Snapshot.rosteredPart (sn : Snapshot) : List (Fin 32) :=
  (allBays.filter fun b => sn.eligible b && (sn.at b).isRostered).insertionSort fun a b => sn.before a b = true

/-- Courtesy part of the service order (R67, part 2): by bay number. -/
def Snapshot.courtesyPart (sn : Snapshot) : List (Fin 32) :=
  allBays.filter fun b => sn.eligible b && !(sn.at b).isRostered

/-- Service order of the pass (R67). -/
def Snapshot.order (sn : Snapshot) : List (Fin 32) := sn.rosteredPart ++ sn.courtesyPart

/-! ### The two phases (R69, R70) -/

/-- Demand of a bay, for the required phase. -/
def Snapshot.demand (sn : Snapshot) (b : Fin 32) : Nat := ((sn.figures b).map (·.demand)).getD 0

/-- Plim of a bay for the pass. -/
def Snapshot.plim (sn : Snapshot) (b : Fin 32) : Nat := ((sn.figures b).map (·.plim)).getD 0

/-- The required phase (R69) over a list of bays: the grants in list order, and what remains. -/
def Snapshot.requiredPhase (sn : Snapshot) : Nat → List (Fin 32) → List (Fin 32 × Nat) × Nat
  | rem, [] => ([], rem)
  | rem, b :: bs =>
    let g0 := min (sn.demand b) rem
    let g := if g0 < sn.pmin then 0 else g0
    let r := sn.requiredPhase (rem - g) bs
    ((b, g) :: r.1, r.2)

/-- The headroom phase (R70) over the bays with the grants they hold so far. -/
def Snapshot.headroomPhase (sn : Snapshot) : Nat → List (Fin 32 × Nat) → List (Fin 32 × Nat)
  | _, [] => []
  | rem, (b, g) :: bs =>
    let a0 := min (sn.plim b - g) rem
    let a := if g + a0 < sn.pmin then 0 else a0
    (b, g + a) :: sn.headroomPhase (rem - a) bs

/-- The grants of the eligible bays (R69, R70), in service order. -/
def Snapshot.shares (sn : Snapshot) : List (Fin 32 × Nat) :=
  let r := sn.requiredPhase sn.available sn.rosteredPart
  sn.headroomPhase r.2 (r.1 ++ sn.courtesyPart.map fun b => (b, 0))

/-- The grant of bay `b`, given the eligible bays' grants (R63, R65): a frozen bay its published setpoint of the
snapshot, an eligible bay its share, a zero-class bay 0. -/
def Snapshot.grantFrom (sn : Snapshot) (shares : List (Fin 32 × Nat)) (b : Fin 32) : Nat :=
  if sn.frozen b then (sn.at b).bay.published
  else (shares.lookup b).getD 0

/-- The grant of bay `b` in the pass. -/
def Snapshot.grant (sn : Snapshot) (b : Fin 32) : Nat := sn.grantFrom sn.shares b

/-- The last pass results of bay `b` (R72), for a bay in session in the snapshot. -/
def Snapshot.result (sn : Snapshot) (shares : List (Fin 32 × Nat)) (b : Fin 32) : Option PassResult :=
  (sn.figures b).map fun f =>
    { grant := sn.grantFrom shares b, late := f.late, atRisk := f.atRisk, belowMin := f.belowMin, laxity := f.laxity }

end Sys2Proof.Machine
end

