-- ==== Sys2Proof/Machine/Rounds.lean ====
section
/-!
DEFINITION. Rounds (chapter 5): round start, pass completion, publication slots, the shed halving, the early-round
request; and the change of mode (chapter 10) with Link Health's part in it.
-/
namespace Sys2Proof.Machine

/-! ### Round start (R79) -/

/-- Part 1 of a round start: the pending increases and the slot times of the round that ends are gone. -/
def State.endRound (s : State) : State :=
  let t := s.dropIncreases
  { t with pub := { t.pub with slotTimes := [] } }

/-- Freshness of each cabinet as sampled at a round start (R123); a cabinet not strapped present is never stale
(R115). -/
def State.freshness (s : State) : Vector Bool 4 :=
  Vector.ofFn fun c => !s.present (.c c) || (s.cabinet c).roundEnd

/-- Part 2: each cabinet strapped present is sampled, its stale round count updated and its flag cleared; STALE CABINET is
evaluated (R123, R124). -/
def State.sampleFreshness (s : State) : State :=
  (s.mapCabinets fun c x =>
    if s.present (.c c) then
      { x with staleRounds := if x.roundEnd then 0 else min 255 (x.staleRounds + 1), roundEnd := false }
    else x).evalStaleCabinet

/-- Unconfirmed round count of one bay at a round start (R80). -/
def Bay.countUnconfirmed (x : Bay) : Bay :=
  { x with unconfirmed := if x.published = x.confirmed then 0 else min 255 (x.unconfirmed + 1) }

/-- Part 3: the unconfirmed round counts, and UNCONFIRMED SETPOINT (R80). -/
def State.countUnconfirmed (s : State) : State := (s.mapBays fun _ x => x.countUnconfirmed).evalUnconfirmed

/-- Part 4: the Bay Table's SATISFIED check (R21), both ways, in bay order. -/
def State.checkSatisfied (s : State) : State := allBays.foldl (fun t b => (t.unsatisfy b).satisfy b) s

/-- Part 5: the Envelope Unit's round-start step (R40). -/
def State.stepEnvelope (s : State) : State :=
  let n := min 3 (s.env.rounds + 1)
  ({ s with env := { s.env with rounds := n, stale := s.env.stale || n == 3 } }).evalLoadStale.evalExceeded

/-- What the snapshot takes of bay `b` (R55). -/
def State.snapBay (s : State) (fresh : Vector Bool 4) (b : Fin 32) : SnapBay :=
  { bay := s.bay b
    health := (s.port (.c (cabinetOf b))).health
    fresh := fresh[cabinetOf b]
    entry := match (s.bay b).session with
      | some x => match x.disp with
        | .rostered k => s.entry k
        | _ => none
      | none => none }

/-- Part 6: the snapshot (R54, R55). -/
def State.snapshot (s : State) (fresh : Vector Bool 4) : Snapshot :=
  { now := s.clock.minute, guard := s.settings.guard, pmin := s.settings.pminInForce, env := s.env.inForce,
    bays := Vector.ofFn fun b => s.snapBay fresh b }

/-- Slot times of a round: slots 1, 2 and 3 at L_r / 4, 2 × L_r / 4 and 3 × L_r / 4 after round start (R79, R83). -/
def slotTimesOf (roundLength : Nat) : List (Fin 4 × Nat) :=
  [(1, roundLength / 4), (2, 2 * roundLength / 4), (3, 3 * roundLength / 4)]

/-- Parts 6 and 7: the snapshot is taken, the pass is in flight, the slot times are fixed and the round timer
restarts. -/
def State.beginPass (s : State) (fresh : Vector Bool 4) : State :=
  { s with
    alloc := { s.alloc with snap := some (s.snapshot fresh), timer := some s.settings.roundLength }
    pub := { s.pub with slotTimes := slotTimesOf s.settings.roundLength } }

/-- A round start, timed or early, in its seven parts (R79). -/
def State.roundStart (s : State) : State :=
  s.endRound.sampleFreshness.countUnconfirmed.checkSatisfied.stepEnvelope.beginPass s.freshness

/-- An early-round request (R47, R78): none in CONFIGURE; held while a pass is in flight; otherwise a round starts at
once. -/
def State.requestEarly (s : State) : State :=
  if s.mode = .configure then s
  else if s.alloc.snap.isSome then { s with alloc := { s.alloc with early := true } }
  else s.roundStart

/-- The request that SITE LIMIT and LOAD REPORT raise when the total allowance exceeds Env (R38, R39). -/
def State.requestIfExceeded (s : State) : State := if s.env.inForce < s.total then s.requestEarly else s

/-! ### Increases at a slot (R86, R87) -/

/-- Target of an increase on live state (R86, check 3). -/
def State.increaseTarget (s : State) (b : Fin 32) (target : Nat) : Nat :=
  let x := s.bay b
  let t := min target x.plim
  if (s.port (.c (cabinetOf b))).health = .degraded then min t x.allowance else t

/-- Checks 1 and 2 of R86. -/
def State.mayIncrease (s : State) (b : Fin 32) : Bool :=
  let x := s.bay b
  (match x.session with
    | some y => y.phase == .active
    | none => false) &&
  x.reachable && (s.port (.c (cabinetOf b))).health != .detached && !x.resync && s.mode == .run

/-- The increase inc of R87, signed: the least of target − published, room, and budget; a ramp limit of 0.0 kW leaves the
budget unlimited. -/
def State.increaseOf (s : State) (b : Fin 32) (target : Nat) : Int :=
  let room : Int := (s.env.inForce : Int) - s.total
  let inc := min ((s.increaseTarget b target : Int) - (s.bay b).published) room
  if s.env.ramp = 0 then inc else min inc ((s.env.ramp : Int) - s.pub.used)

/-- The evaluation of a pending increase of bay `b` (R86, R87): it is published if it qualifies. -/
def State.increase (s : State) (b : Fin 32) (target : Nat) : State :=
  let inc := s.increaseOf b target
  if s.mayIncrease b = true ∧ 0 < inc ∧ s.settings.pminInForce ≤ (s.bay b).published + inc.toNat then
    let t := s.publish b ((s.bay b).published + inc.toNat)
    { t with pub := { t.pub with used := t.pub.used + inc.toNat } }
  else s

/-- One bay of the service order at slot `k`: a pending increase of that slot is evaluated, then discarded. -/
def State.evaluateAt (k : Fin 4) (s : State) (b : Fin 32) : State :=
  match s.pendingInc b with
  | none => s
  | some target => if (s.bay b).slot = k then (s.increase b target).setPendingInc b none else s

/-- A slot is taken (R86): the slot budget used becomes 0, and the pending increases of the slot's bays are evaluated in
service order. -/
def State.takeSlot (s : State) (k : Fin 4) : State :=
  s.alloc.order.foldl (State.evaluateAt k) { s with pub := { s.pub with used := 0 } }

/-! ### Modes (chapter 10) -/

/-- Link Health at entry to CONFIGURE (R126, steps 1 to 4): every port's counts to 0 and SOUND; the bays of a DETACHED
cabinet port become reachable with resync set; every silence timer stops; LINK TROUBLE is re-evaluated. -/
def State.resetLinks (s : State) : State :=
  let t := s.mapBays fun b x =>
    if (s.port (.c (cabinetOf b))).health = .detached then { x with reachable := true, resync := true } else x
  ((t.mapPorts fun r => { r with errors := 0, health := .sound, rejoin := 0 }).mapCabinets fun _ x =>
    { x with silence := none }).evalLinkTrouble

/-- The zero publication at entry to CONFIGURE (R95), in bay order. -/
def State.publishZero (s : State) : State :=
  allBays.foldl (fun t b => if 0 < (t.bay b).published then t.publish b 0 else t) s

/-- The round stops (R158, step 1): timer, slot times, pending increases, held early-round request. -/
def State.stopRound (s : State) : State :=
  let t := s.endRound
  { t with alloc := { t.alloc with timer := none, early := false } }

/-- Entry to CONFIGURE from RUN or HOLD (R158). The PERMIT and RUN levels follow the mode (Machine/Pins.lean). -/
def State.enterConfigure (s : State) : State :=
  let t := s.stopRound.resetLinks.publishZero
  { t with alloc := { t.alloc with order := [] }, mode := .configure }

/-- The silence timers of the cabinet ports strapped present and not DETACHED start or restart, toward 2 × L_r
(R120). -/
def State.startSilence (s : State) : State :=
  s.mapCabinets fun c x =>
    if s.present (.c c) = true ∧ (s.port (.c c)).health ≠ .detached then
      { x with silence := some (2 * s.settings.roundLength) }
    else x

/-- From an entry to RUN or HOLD on, the Pmin last set governs every pass and every publication (R149). -/
def Settings.govern (x : Settings) : Settings := { x with pminInForce := x.pmin }

/-- Entry to RUN or HOLD from CONFIGURE (R159): silence timers, mode, the Pmin that governs (R149), first round. -/
def State.enterRounds (s : State) (m : Mode) : State :=
  ({ s.startSilence with mode := m, settings := s.settings.govern }).roundStart

/-- A change between RUN and HOLD (R160). -/
def State.swapMode (s : State) (m : Mode) : State :=
  let t := if m = .hold then s.dropIncreases else s
  { t.startSilence with mode := m }

/-- A requested mode takes effect (R157): the mode in force brings nothing; another brings its entry effects. The pending
mode then reads none. -/
def State.changeMode (s : State) (m : Mode) : State :=
  let t :=
    if m = s.mode then s
    else match m with
      | .configure => s.enterConfigure
      | _ => if s.mode = .configure then s.enterRounds m else s.swapMode m
  { t with pendingMode := none }

/-! ### Pass completion (R82) -/

/-- Last pass results (R72, part 1): written to every unmarked bay that was in session in the snapshot. -/
def State.writeResults (s : State) (sn : Snapshot) (shares : List (Fin 32 × Nat)) : State :=
  s.mapBays fun b x =>
    match x.occ, sn.result shares b with
    | .session y, some r => if s.marked b then x else { x with occ := .session { y with last := some r } }
    | _, _ => x

/-- The service order is replaced, less the marked bays (R68, R72 part 2). -/
def State.replaceOrder (s : State) (sn : Snapshot) : State :=
  { s with alloc := { s.alloc with order := sn.order.filter fun b => !s.marked b } }

/-- The decrease of one bay (R84): unmarked, not frozen in the pass, grant below its live published setpoint; the
publication is made for a reachable bay. -/
def State.decrease (sn : Snapshot) (shares : List (Fin 32 × Nat)) (s : State) (b : Fin 32) : State :=
  let g := sn.grantFrom shares b
  if s.marked b = false ∧ sn.frozen b = false ∧ g < (s.bay b).published then s.publish b g else s

/-- The pending increase of bay `b` after pass completion in RUN (R85): its grant, when the bay is unmarked, was eligible
in the pass, is reachable, and has a grant above its live published setpoint. -/
def State.notedIncrease (s : State) (sn : Snapshot) (shares : List (Fin 32 × Nat)) (b : Fin 32) : Option Nat :=
  if s.marked b = false ∧ sn.eligible b = true ∧ (s.bay b).reachable = true ∧
      (s.bay b).published < sn.grantFrom shares b then some (sn.grantFrom shares b)
  else s.pendingInc b

/-- The pending increases of a pass are noted (R85). -/
def State.noteIncreases (s : State) (sn : Snapshot) (shares : List (Fin 32 × Nat)) : State :=
  { s with pub := { s.pub with pending := Vector.ofFn (s.notedIncrease sn shares) } }

/-- The pass in flight ends: the snapshot is discarded and the marks cleared (R82, part 4). -/
def State.endPass (s : State) : State :=
  { s with alloc := { s.alloc with snap := none, marks := Vector.replicate 32 false } }

/-- Parts 1 to 4 of pass completion (R82): results, decreases, and in RUN the increases and slot 0. -/
def State.finishPass (s : State) (sn : Snapshot) : State :=
  let shares := sn.shares
  let t := allBays.foldl (State.decrease sn shares) ((s.writeResults sn shares).replaceOrder sn).evalAtRisk
  (if s.mode = .run then (t.noteIncreases sn shares).takeSlot 0 else t).endPass

/-- Part 5 of pass completion: a pending mode takes effect. -/
def State.takePendingMode (s : State) : State :=
  match s.pendingMode with
  | some m => s.changeMode m
  | none => s

/-- Part 6 of pass completion: a held early-round request is taken, or discarded in CONFIGURE. -/
def State.takeHeldRequest (s : State) : State :=
  if s.alloc.early then
    let t := { s with alloc := { s.alloc with early := false } }
    if s.mode = .configure then t else t.roundStart
  else s

/-- Pass completion (R82). -/
def State.completePass (s : State) (sn : Snapshot) : State := (s.finishPass sn).takePendingMode.takeHeldRequest

/-! ### Load shedding (R44, R45, R92) -/

/-- The halved value of a published setpoint (R92). -/
def halved (pmin published : Nat) : Nat := if published / 2 < pmin then 0 else published / 2

/-- The shed halving of one bay (R92). ENVELOPE EXCEEDED is evaluated once, after the halving of all bays (R44). -/
def State.halveBay (s : State) (b : Fin 32) : State :=
  let x := s.bay b
  if x.reachable = true ∧ 0 < x.published then s.issue b (halved s.settings.pminInForce x.published) else s

/-- The shed halving, in bay order (R92). -/
def State.halveAll (s : State) : State := allBays.foldl State.halveBay s

/-- A shed assertion (R44): shed is in force; in RUN or HOLD the published setpoints are halved and an early-round request
is raised; SHED ACTIVE begins and ENVELOPE EXCEEDED is re-evaluated.
DEDUCED: one evaluation after all halvings (log 9). -/
def State.assertShed (s : State) : State :=
  let t := { s with env := { s.env with shed := true } }
  let u := if s.mode = .configure then t else t.halveAll
  u.evalShed.evalExceeded.requestEarly

/-- A shed release (R45). -/
def State.releaseShed (s : State) : State :=
  ({ s with env := { s.env with shed := false } }).evalShed.evalExceeded

end Sys2Proof.Machine
end

