-- ==== Sys2Proof/Machine/Pins.lean ====
section
/-!
DEFINITION. General pins and alert lines (chapters 11 and 12): the levels the part drives, the levels READ STATUS reads,
and the effects of PIN SETUP.
-/
namespace Sys2Proof.Machine

/-! ### Levels -/

/-- ALERT_D is driven low (R168); released while RESET is low (R163). -/
def State.alertD (s : State) : Bool := !s.resetLow && s.dset.alert

/-- ALERT_S is driven low (R168); released while RESET is low (R163). -/
def State.alertS (s : State) : Bool := !s.resetLow && s.sset.alert

/-- RUN level of GP2: high while the mode is RUN (R174). -/
def State.runLevel (s : State) : Bool := s.mode == .run

/-- ALERT ANY level of GP3: high while neither alert line is driven low (R174). -/
def State.alertAnyLevel (s : State) : Bool := !(s.alertD || s.alertS)

/-- PERMIT level of cabinet `c`: high in RUN or HOLD while the cabinet is strapped present and its port is not DETACHED
(R174). -/
def State.permitLevel (s : State) (c : Fin 4) : Bool :=
  s.mode != .configure && s.present (.c c) && (s.port (.c c)).health != .detached

/-- Level a DEDICATED output GP2 to GP7 drives (R174). -/
def State.functionLevel (s : State) (n : Fin 8) : Bool :=
  if n.val = 2 then s.runLevel
  else if n.val = 3 then s.alertAnyLevel
  else s.permitLevel ⟨(n.val - 4) % 4, by omega⟩

/-- What the part drives on GPn: a level, or nothing (R171, R174); every pin is an input while RESET is low (R163), and a
DEDICATED GP0 or GP1 is an input (R173). -/
def State.pinDrive (s : State) (n : Fin 8) : Option Bool :=
  if s.resetLow then none
  else if s.dedicated n.val then
    if n.val < 2 then none else some (s.functionLevel n)
  else if s.pins.dir.getLsbD n.val then some (s.pins.latch.getLsbD n.val)
  else none

/-- The recognised level of a DEDICATED GP1, where the sender of READ says whether the filter has recognised a rising edge on
it since the last recognised falling edge, dedication or reset release (R173): no row of the table reports that edge, which
has no other effect. DESIGN CHOICE (log 8). -/
def State.recognise (s : State) (rise : Bool) : State :=
  { s with pins := { s.pins with gp1 := s.pins.gp1 || (s.dedicated 1 && rise) } }

/-- Level of GPn as READ STATUS returns it (R170), with `pins` the levels on the pins at that moment. A DEDICATED GP0 or GP1
reads its recognised level (R173). -/
def State.pinLevel (s : State) (pins : Byte) (n : Fin 8) : Bool :=
  if s.dedicated n.val then
    if n.val = 0 then s.pins.gp0
    else if n.val = 1 then s.pins.gp1
    else s.functionLevel n
  else if s.pins.dir.getLsbD n.val then s.pins.latch.getLsbD n.val
  else pins.getLsbD n.val

/-- The pin-levels byte of READ STATUS: bit n for GPn (R170). -/
def State.pinLevels (s : State) (pins : Byte) : Byte :=
  BitVec.ofBoolListLE ((List.finRange 8).map fun n => s.pinLevel pins n)

/-! ### PIN SETUP -/

/-- The functions and directions take their masks; the filter of a pin that becomes DEDICATED restarts from its level
(R151, R173). -/
def Pins.setup (x : Pins) (fn dir pins : Byte) : Pins :=
  { x with
    fn := fn, dir := dir
    gp0 := if fn.getLsbD 0 && !x.fn.getLsbD 0 then pins.getLsbD 0 else x.gp0
    gp1 := if fn.getLsbD 1 && !x.fn.getLsbD 1 then pins.getLsbD 1 else x.gp1 }

/-- A PIN SETUP taken in CONFIGURE (R172), with its effects on the Depot Clock (R29) and the Envelope Unit (R42). -/
def State.setupPins (s : State) (fn dir pins : Byte) : State :=
  let t := { s with pins := s.pins.setup fn dir pins }
  let u := if fn.getLsbD 1 = s.pins.fn.getLsbD 1 then t
    else { t with clock := { t.clock with second := 0, fraction := 0, overtaken := false } }
  if fn.getLsbD 0 = s.pins.fn.getLsbD 0 then u
  else if fn.getLsbD 0 then (if pins.getLsbD 0 then u else u.assertShed)
  else if s.env.shed then u.releaseShed
  else u

end Sys2Proof.Machine
end

