-- ==== Sys2Proof/Machine/Read.lean ====
section
/-!
DEFINITION. The READ items and their records (section 6.9, R112), and the DATA reply.
-/
namespace Sys2Proof.Machine

/-! ### Codes -/

/-- Disposition codes (section 6.9); 0 is absent. -/
def Disposition.code : Disposition → Nat
  | .rostered _ => 1
  | .courtesy => 2
  | .refused => 3
  | .duplicate => 4

/-- Bay state codes (section 6.9). -/
def Occupancy.code : Occupancy → Nat
  | .unfitted => 0
  | .vacant => 1
  | .session x => match x.phase with
    | .active => 2
    | .satisfied => 3
    | .barred => 4
    | .fault _ => 5

/-- Mode codes (section 6.9). -/
def Mode.code : Mode → Nat
  | .configure => 0
  | .run => 1
  | .hold => 2

/-- Health state codes (section 6.9). -/
def Health.code : Health → Nat
  | .sound => 0
  | .warning => 1
  | .degraded => 2
  | .detached => 3

/-- A flag as a bit at place `n` of a record word. -/
def bitAt (x : Bool) (n : Nat) : Nat := if x then 2 ^ n else 0

/-- A signed 16-bit field, two's complement. -/
def signed2 (x : Int) : List Byte := byte2 (x % 65536).toNat

/-! ### Records -/

/-- The notice set of the asking port: the D-set on the D-port, the S-set on the S-port (R154). -/
def State.setOf (s : State) (p : Port) : NoticeSet := if p = .d then s.dset else s.sset

/-- The STATUS record: 12 bytes. -/
def State.statusRecord (s : State) (p : Port) (pins : Byte) : List Byte :=
  byte1 s.mode.code ++
  byte1 (match s.pendingMode with
    | some m => m.code
    | none => 255) ++
  byte1 (s.straps.cabs.toNat + 4 * s.straps.baud.toNat) ++
  byte2 s.clock.minute ++ byte1 s.clock.second ++
  byte2 (s.setOf p).pending.toNat ++ byte1 (s.setOf p).code ++
  [s.pinLevels pins] ++ byte1 s.index.window ++ byte1 s.settings.guard

/-- The roster slot byte of a BAY record: 0xFF absent. DESIGN CHOICE (log 22): so the record table of section 6.9 has it,
against the zero that R1 and R112 have in the bytes of absent fields. -/
def Disposition.slotByte : Disposition → Byte
  | .rostered k => BitVec.ofNat 8 k.val
  | _ => 0xFF

/-- The fault code byte of a BAY record: present only in FAULT. -/
def Phase.faultByte : Phase → Byte
  | .fault c => c
  | _ => 0

/-- The last-pass-results word of a BAY record. -/
def resultWord : Option PassResult → Nat
  | some r => r.grant % 2048 + 2 ^ 12 + bitAt r.late 13 + bitAt r.atRisk 14 + bitAt r.belowMin 15
  | none => 0

/-- The laxity field of a BAY record. -/
def laxityField : Option PassResult → List Byte
  | some r => signed2 r.laxity
  | none => [0, 0]

/-- The fields of a BAY record that lie between the state byte and the Pcap word: van tag, roster slot, fault code. The roster
slot of a bay out of session is absent, and reads 0xFF. DESIGN CHOICE (log 22). -/
def Bay.identityBytes (x : Bay) : List Byte :=
  match x.session with
  | some y => byte3 y.tag ++ [y.disp.slotByte, y.phase.faultByte]
  | none => [0, 0, 0, 0xFF, 0]

/-- A BAY record: 20 bytes; absent fields read as zero, an absent roster slot as 0xFF. -/
def Bay.record (x : Bay) : List Byte :=
  let y := x.session
  byte1 (x.occ.code + 16 * ((y.map fun z => z.disp.code).getD 0)) ++
  x.identityBytes ++
  byte2 (x.pcap % 2048 + 2048 * x.slot.val + bitAt x.reachable 13 + bitAt x.resync 14) ++
  byte2 ((y.map (·.pveh)).getD 0) ++ byte2 ((y.map (·.delivered)).getD 0) ++
  byte2 (x.published % 2048 + 2048 * x.seq.toNat) ++ byte2 x.confirmed ++
  byte2 (resultWord (y.bind (·.last))) ++ laxityField (y.bind (·.last))

/-- The state, bay and flags of a ROSTER record's entry state. -/
def EntryState.fields : EntryState → Nat × Byte × Bool
  | .waiting => (1, 0xFF, false)
  | .plugged b o => (2, BitVec.ofNat 8 b.val, o)
  | .departed => (3, 0xFF, false)

/-- A ROSTER record: 14 bytes; a free slot reads FREE and zero in every other field (R112). -/
def rosterRecord : Option Entry → List Byte
  | none => List.replicate 14 0
  | some e =>
    let f := e.state.fields
    byte3 e.tag ++ byte2 e.departure ++ byte2 e.target ++ byte1 e.cls ++ byte1 (bitAt e.barred 0) ++
    byte1 f.1 ++ [f.2.1] ++ byte1 (bitAt f.2.2 0 + bitAt e.lastEnergy.isSome 1) ++ byte2 (e.lastEnergy.getD 0)

/-- Sum of the present power of every bay in session (R50). -/
def State.presentPower (s : State) : Nat := (allBays.map fun b => (((s.bay b).session).map (·.power)).getD 0).sum

/-- The ENVELOPE record: 12 bytes (R50). -/
def State.envelopeRecord (s : State) : List Byte :=
  byte2 s.env.pSite ++ byte2 s.env.other ++ byte2 s.env.effective ++ byte2 s.env.inForce ++ byte2 s.total ++
  byte2 s.presentPower

/-- A LINKS record: 2 bytes. -/
def LinkPort.record (r : LinkPort) : List Byte := byte1 r.errors ++ byte1 r.health.code

/-! ### READ (R112) -/

/-- Largest first index of an item; none for an item code above 5. -/
def itemTop (item : Nat) : Option Nat :=
  match item with
  | 0 => some 0
  | 1 => some 31
  | 2 => some 63
  | 3 => some 31
  | 4 => some 0
  | 5 => some 5
  | _ => none

/-- Record size of an item in bytes (section 6.9). -/
def itemSize (item : Nat) : Nat :=
  match item with
  | 0 => 12
  | 1 => 20
  | 2 => 14
  | 3 => 1
  | 4 => 12
  | _ => 2

/-- All the records of an item, in index order, read from live state for port `p`. -/
def State.records (s : State) (p : Port) (pins : Byte) (item : Nat) : List (List Byte) :=
  match item with
  | 0 => [s.statusRecord p pins]
  | 1 => allBays.map fun b => (s.bay b).record
  | 2 => allSlots.map fun k => rosterRecord (s.entry k)
  | 3 => s.alloc.order.map fun b => byte1 b.val
  | 4 => [s.envelopeRecord]
  | _ => allPorts.map fun q => (s.port q).record

/-- Reply limit of the asking port (R111). -/
def State.limitOf (s : State) (p : Port) : Nat := if p = .d then s.settings.limitD else s.settings.limitS

/-- The DATA reply carrying `n` of the records from index `first` on (R112). -/
def dataReply (item : Byte) (first : Nat) (records : List (List Byte)) (n : Nat) : Msg :=
  let next := if first + n < records.length then first + n else 255
  { kind := Kind.data.code, unit := BitVec.ofNat 8 first
    payload := [item, BitVec.ofNat 8 first, BitVec.ofNat 8 next] ++ ((records.drop first).take n).flatten }

/-- The reply to READ (R112): the checks of item, index and fit, in their order, then the DATA reply. -/
def State.readReply (s : State) (p : Port) (pins : Byte) (m : Msg) (item : Byte) : Msg :=
  match itemTop item.toNat with
  | none => m.answer Flag.badUnit.result
  | some top =>
    let first := m.unit.toNat
    if top < first then m.answer Flag.badUnit.result
    else
      let records := s.records p pins item.toNat
      let fit := (s.limitOf p - 3) / itemSize item.toNat
      if fit = 0 ∧ first < records.length then m.answer Flag.limitTooSmall.result
      else dataReply item first records fit

end Sys2Proof.Machine
end

