-- ==== Sys2Proof/Machine/CabinetMessages.lean ====
section
/-!
DEFINITION. The meanings of the cabinet messages (chapter 8), each from the point where the handler takes it. On a port
that is no cabinet port the checks of R106 have already answered or dropped the message.
-/
namespace Sys2Proof.Machine

/-- The rule of a cabinet kind runs with the cabinet of the port (R128). -/
def onCabinet (p : Port) (f : Fin 4 → Msg → State → State × Option Msg) (m : Msg) (s : State) : State × Option Msg :=
  match p with
  | .c n => f n m s
  | _ => (s, none)

/-! ### OUTLETS (R129, R4) -/

/-- A listed outlet (R4): an UNFITTED bay becomes VACANT with the cap; any other takes the cap, and the vehicle-limit
publication is made where Plim now lies below the published setpoint. -/
def State.fitOutlet (s : State) (b : Fin 32) (cap : Nat) : State :=
  let x := s.bay b
  if x.occ = .unfitted then (s.setBay b { x with occ := .vacant, pcap := cap }).mark b
  else (s.setBay b { x with pcap := cap }).limitVehicle b

/-- An outlet not listed (R4): a session ends as by UNPLUG; the bay becomes UNFITTED with Pcap 0.0 kW. -/
def State.unfitOutlet (s : State) (b : Fin 32) : State :=
  if (s.bay b).occ = .unfitted then s
  else
    let t := s.endSession b
    (t.setBay b { t.bay b with occ := .unfitted, pcap := 0 }).mark b

/-- An accepted list acts on the cabinet's bays in outlet order (R4). -/
def State.applyOutlets (s : State) (c : Fin 4) (l : List (Byte × Nat)) : State :=
  allOutlets.foldl (fun t o =>
    match listedCap l o with
    | some cap => t.fitOutlet (bayAt c o) cap
    | none => t.unfitOutlet (bayAt c o)) s

/-- A record's cap lies above 150.0 kW (R129, check 3). -/
def capsClamped (l : List (Byte × Nat)) : Bool := l.any fun r => maxPower < r.2

/-- OUTLETS (R129). -/
def outletsBody (c : Fin 4) (m : Msg) (s : State) : State × Option Msg :=
  let l := outletRecords m.payload
  if outletsOk l then done m (s.applyOutlets c l) (capsClamped l) else refuse m s .badUnit

/-- OUTLETS taken by port `p`'s handler (R129). -/
def execOutlets (p : Port) (s : State) : Host.Outcome State Fault Refusal :=
  .next (s.handle .outlets p (onCabinet p outletsBody))

/-! ### PLUG and UNPLUG (R131, R132) -/

/-- The ANSWER to a PLUG answered OK, with the disposition (R108, R131). -/
def plugAnswer (m : Msg) (clamped : Bool) (d : Disposition) : Msg :=
  answerTo m.kind m.unit (okResult clamped) (byte1 d.code)

/-- PLUG (R131): refused at an UNFITTED bay; otherwise any session of the bay ends (R19) and a new one starts (R18). -/
def plugBody (c : Fin 4) (m : Msg) (s : State) : State × Option Msg :=
  match m.payload with
  | [t2, t1, t0, p1, p0] =>
    let b := bayOfUnit c m.unit
    if (s.bay b).occ = .unfitted then refuse m s .badUnit
    else
      let v := field16 p1 p0
      let r := (s.endSession b).startSession b (fieldTag t2 t1 t0) (min maxPower v)
      (r.1, some (plugAnswer m (maxPower < v) r.2))
  | _ => (s, none)

/-- PLUG taken by port `p`'s handler (R131). -/
def execPlug (p : Port) (s : State) : Host.Outcome State Fault Refusal := .next (s.handle .plug p (onCabinet p plugBody))

/-- UNPLUG (R132, R24). -/
def unplugBody (c : Fin 4) (m : Msg) (s : State) : State × Option Msg :=
  let b := bayOfUnit c m.unit
  match (s.bay b).occ with
  | .unfitted => refuse m s .badUnit
  | .vacant => refuse m s .wrongState
  | .session _ => done m (s.endSession b) false

/-- UNPLUG taken by port `p`'s handler (R132). -/
def execUnplug (p : Port) (s : State) : Host.Outcome State Fault Refusal :=
  .next (s.handle .unplug p (onCabinet p unplugBody))

/-! ### METER (R133, R134, R20) -/

/-- The fields a METER carries (section 6.9). -/
structure MeterFields where
  occupied : Bool
  delivered : Nat
  power : Nat
  pveh : Nat
  applied : Nat
  seq : Byte
deriving DecidableEq, Repr

/-- The fields of a METER payload. -/
def meterFields : List Byte → Option MeterFields
  | [o, d1, d0, w1, w0, p1, p0, a1, a0, q] =>
    some { occupied := o != 0, delivered := field16 d1 d0, power := field16 w1 w0, pveh := field16 p1 p0,
           applied := field16 a1 a0, seq := q }
  | _ => none

/-- Delivered energy, present power and Pveh of a METER (R20, R133): delivered energy never decreases, the two powers are
clamped to 150.0 kW. -/
def Session.metered (x : Session) (f : MeterFields) : Session :=
  { x with delivered := max x.delivered f.delivered, power := min maxPower f.power, pveh := min maxPower f.pveh }

/-- The applied fields of a METER (R20): confirmation (R90), or resync (R91) when the flag is set. -/
def State.takeApplied (s : State) (b : Fin 32) (f : MeterFields) : State :=
  if (s.bay b).resync then s.resync b f.applied f.seq else s.confirm b f.seq

/-- A METER of an occupied outlet in session, in the order of R20: delivered energy, present power, Pveh with its
vehicle-limit publication, the applied fields, and then the SATISFIED check of R21. -/
def State.meter (s : State) (b : Fin 32) (x : Session) (f : MeterFields) : State :=
  ((((s.setBay b { s.bay b with occ := .session (x.metered f) }).limitVehicle b).takeApplied b f).satisfy b)

/-- METER (R134): dropped for an UNFITTED bay, no change for a VACANT one; in session, the session ends or the fields are
taken. A report: no answer. -/
def meterBody (c : Fin 4) (m : Msg) (s : State) : State × Option Msg :=
  let b := bayOfUnit c m.unit
  match meterFields m.payload, (s.bay b).session with
  | some f, some x => (if f.occupied then s.meter b x f else s.endSession b, none)
  | _, _ => (s, none)

/-- METER taken by port `p`'s handler (R133). -/
def execMeter (p : Port) (s : State) : Host.Outcome State Fault Refusal := .next (s.handle .meter p (onCabinet p meterBody))

/-! ### ROUND END, APPLIED, OUTLET FAULT (R137, R136, R139) -/

/-- ROUND END (R137): the cabinet's round-end-seen flag becomes true. -/
def roundEndBody (c : Fin 4) (_m : Msg) (s : State) : State × Option Msg :=
  (s.setCabinet c { s.cabinet c with roundEnd := true }, none)

/-- ROUND END taken by port `p`'s handler (R137). -/
def execRoundEnd (p : Port) (s : State) : Host.Outcome State Fault Refusal :=
  .next (s.handle .roundEnd p (onCabinet p roundEndBody))

/-- APPLIED (R136): the sequence is handed to the Publisher; the value is not compared. -/
def appliedBody (c : Fin 4) (m : Msg) (s : State) : State × Option Msg :=
  match m.payload with
  | [_, _, q] => (s.confirm (bayOfUnit c m.unit) q, none)
  | _ => (s, none)

/-- APPLIED taken by port `p`'s handler (R136). -/
def execApplied (p : Port) (s : State) : Host.Outcome State Fault Refusal :=
  .next (s.handle .applied p (onCabinet p appliedBody))

/-- OUTLET FAULT at a bay in session (R22, R94): the code is stored and the notice raised; a bay not yet in FAULT becomes
FAULT and is published 0.0 kW at once. -/
def State.faultOutlet (s : State) (b : Fin 32) (x : Session) (code : Byte) : State :=
  let t := s.setBay b { s.bay b with occ := .session { x with phase := .fault code } }
  (match x.phase with
    | .fault _ => t
    | _ => t.publish b 0).raiseS .outletFault

/-- OUTLET FAULT (R139). -/
def outletFaultBody (c : Fin 4) (m : Msg) (s : State) : State × Option Msg :=
  match m.payload with
  | [code] =>
    let b := bayOfUnit c m.unit
    match (s.bay b).occ with
    | .unfitted => refuse m s .badUnit
    | .vacant => refuse m s .wrongState
    | .session x => done m (s.faultOutlet b x code) false
  | _ => (s, none)

/-- OUTLET FAULT taken by port `p`'s handler (R139). -/
def execOutletFault (p : Port) (s : State) : Host.Outcome State Fault Refusal :=
  .next (s.handle .outletFault p (onCabinet p outletFaultBody))

end Sys2Proof.Machine
end

