-- ==== Sys2Proof/Machine/DispatchMessages.lean ====
section
/-!
DEFINITION. The meanings of the D-port requests (chapters 1, 2 and 9): roster edits, the clock, the unknown-van policy, the
tag window, and the end of an index rebuild.
-/
namespace Sys2Proof.Machine

/-! ### ROSTER PUT (R12 to R15) -/

/-- The clamped fields of a ROSTER PUT (R12). -/
structure PutFields where
  tag : Tag
  departure : Nat
  target : Nat
  cls : Nat
  barred : Bool
  clamped : Bool
deriving DecidableEq, Repr

/-- The fields of a ROSTER PUT payload, clamped (R12). DEDUCED: a barred value of 1 is not clamped (log 14). -/
def putFields : List Byte → Option PutFields
  | [t2, t1, t0, d1, d0, e1, e0, k, x] =>
    let d := field16 d1 d0
    let e := field16 e1 e0
    some { tag := fieldTag t2 t1 t0, departure := min lastMinute d, target := min maxTarget e, cls := min 3 k.toNat,
           barred := x != 0, clamped := lastMinute < d || maxTarget < e || 3 < k.toNat || 1 < x.toNat }
  | _ => none

/-- The roster slot that holds a tag. -/
def State.slotOf (s : State) (t : Tag) : Option (Fin 64) :=
  allSlots.find? fun k => match s.entry k with
    | some e => e.tag == t
    | none => false

/-- The lowest-numbered free roster slot (R5). -/
def State.freeSlot (s : State) : Option (Fin 64) := allSlots.find? fun k => (s.entry k).isNone

/-- An entry with a put's values (R13). -/
def Entry.put (e : Entry) (f : PutFields) : Entry :=
  { e with departure := f.departure, target := f.target, cls := f.cls, barred := f.barred }

/-- A bay in session takes a disposition by a roster edit: an ACTIVE or SATISFIED bay that loses its claim becomes BARRED,
one in FAULT stays in FAULT (R13, R15). -/
def Session.deny (x : Session) (d : Disposition) : Session :=
  { x with disp := d
           phase := match x.phase with
             | .fault c => .fault c
             | _ => .barred }

/-- A bay in session becomes ROSTERED by relink: a BARRED or ACTIVE bay becomes ACTIVE, one in FAULT stays in FAULT (R15). -/
def Session.grantSlot (x : Session) (k : Fin 64) : Session :=
  { x with disp := .rostered k
           phase := match x.phase with
             | .fault c => .fault c
             | _ => .active }

/-- Change the session of a bay; a bay not in session is unchanged. -/
def State.onSession (s : State) (b : Fin 32) (f : Session → Session) : State :=
  match (s.bay b).session with
  | some x => s.setBay b { s.bay b with occ := .session (f x) }
  | none => s

/-- The entry's tag is held by bay `b` in session with disposition COURTESY or REFUSED (R15). -/
def State.relinks (s : State) (t : Tag) (b : Fin 32) : Bool :=
  match (s.bay b).session with
  | some x => x.tag == t && (x.disp == .courtesy || x.disp == .refused)
  | none => false

/-- Relinking with barred = 1 (R15): every matching bay takes disposition REFUSED. -/
def State.refuseBays (s : State) (l : List (Fin 32)) : State :=
  l.foldl (fun t b => t.onSession b (·.deny .refused)) s

/-- Relinking with barred = 0 (R15): the lowest matching bay is relinked and the entry becomes PLUGGED there with overdue 0;
every other takes disposition DUPLICATE, with one DUPLICATE TAG notice for the put. -/
def State.linkBays (s : State) (k : Fin 64) (e : Entry) : List (Fin 32) → State
  | [] => s
  | b :: rest =>
    let t := (s.onSession b (·.grantSlot k)).setEntry k (some { e with state := .plugged b false })
    let u := rest.foldl (fun v b' => v.onSession b' (·.deny .duplicate)) t
    if rest = [] then u else u.raiseD .duplicateTag

/-- The relinking rule (R15), for a put that has been acted on at slot `k`. -/
def State.relink (s : State) (k : Fin 64) : State :=
  match s.entry k with
  | none => s
  | some e =>
    if e.state = .waiting then
      let l := allBays.filter (s.relinks e.tag)
      if e.barred then s.refuseBays l else s.linkBays k e l
    else s

/-- A put that bars a PLUGGED entry (R13): the entry leaves PLUGGED, its bay takes disposition REFUSED.
DEDUCED (log 11). -/
def State.barEntry (s : State) (k : Fin 64) (b : Fin 32) : State :=
  (s.leavePlugged k ((((s.bay b).session).map (·.delivered)).getD 0)).onSession b (·.deny .refused)

/-- A put of a tag already rostered (R13): the entry is updated in place. -/
def State.updateEntry (s : State) (k : Fin 64) (e : Entry) (f : PutFields) : State :=
  let t := s.setEntry k (some (e.put f))
  match e.state with
  | .plugged b _ => if f.barred = true ∧ e.barred = false then t.barEntry k b else t
  | _ => t

/-- A put of a new tag into slot `k` (R14): the entry, WAITING, and its index entry. -/
def State.addEntry (s : State) (k : Fin 64) (f : PutFields) : State :=
  (s.setEntry k (some { tag := f.tag, departure := f.departure, target := f.target, cls := f.cls, barred := f.barred,
                        state := .waiting, lastEnergy := none })).setIndex (tagEntry s.index.window f.tag) (some k)

/-- ROSTER PUT (R12 to R15, R142). -/
def rosterPutBody (m : Msg) (s : State) : State × Option Msg :=
  match putFields m.payload with
  | none => (s, none)
  | some f =>
    match s.slotOf f.tag with
    | some k =>
      match s.entry k with
      | some e => done m ((s.updateEntry k e f).relink k) f.clamped
      | none => (s, none)
    | none =>
      if (s.indexAt (tagEntry s.index.window f.tag)).isSome then refuse m s .collision
      else match s.freeSlot with
        | none => refuse m s .rosterFull
        | some k => done m ((s.addEntry k f).relink k) f.clamped

/-- ROSTER PUT taken by port `p`'s handler (R12). -/
def execRosterPut (p : Port) (s : State) : Host.Outcome State Fault Refusal := .next (s.handle .rosterPut p rosterPutBody)

/-! ### ROSTER DROP (R16) -/

/-- The entry is PLUGGED. -/
def Entry.isPlugged (e : Entry) : Bool :=
  match e.state with
  | .plugged _ _ => true
  | _ => false

/-- ROSTER DROP (R16). -/
def rosterDropBody (m : Msg) (s : State) : State × Option Msg :=
  match m.payload with
  | [t2, t1, t0] =>
    let t := fieldTag t2 t1 t0
    match s.slotOf t with
    | none => refuse m s .notFound
    | some k =>
      match s.entry k with
      | none => (s, none)
      | some e =>
        if e.isPlugged then refuse m s .inUse
        else done m ((s.setEntry k none).setIndex (tagEntry s.index.window t) none) false
  | _ => (s, none)

/-- ROSTER DROP taken by port `p`'s handler (R16). -/
def execRosterDrop (p : Port) (s : State) : Host.Outcome State Fault Refusal :=
  .next (s.handle .rosterDrop p rosterDropBody)

/-! ### CLOCK SET (R31) -/

/-- The clock set to a minute and a second (R31, step 2): on the pulse time base the second counter and the second fraction
stay at 0. A CLOCK SET taken on the internal time base at second 59 may come together with the minute event then due (R35);
the model notes that it was taken first. DEDUCED (log 7). -/
def State.setClock (s : State) (minute second : Nat) : State :=
  { s with
    clock :=
      { minute := minute, second := if s.dedicated 1 then 0 else second, fraction := 0
        overtaken := !s.dedicated 1 && (s.clock.second == 59 || s.clock.overtaken) } }

/-- CLOCK SET (R31): clamp, set, evaluate, answer. -/
def clockSetBody (m : Msg) (s : State) : State × Option Msg :=
  match m.payload with
  | [m1, m0, sec] =>
    let n := field16 m1 m0
    done m ((s.setClock (min lastMinute n) (min 59 sec.toNat)).evaluateDepartures)
      (lastMinute < n || 59 < sec.toNat)
  | _ => (s, none)

/-- CLOCK SET taken by port `p`'s handler (R31). -/
def execClockSet (p : Port) (s : State) : Host.Outcome State Fault Refusal := .next (s.handle .clockSet p clockSetBody)

/-! ### VAN POLICY (R143) -/

/-- VAN POLICY (R143). -/
def vanPolicyBody (m : Msg) (s : State) : State × Option Msg :=
  match m.payload with
  | [pol, g] =>
    done m { s with settings := { s.settings with courtesy := pol != 0, guard := min maxGuard g.toNat } }
      (1 < pol.toNat || maxGuard < g.toNat)
  | _ => (s, none)

/-- VAN POLICY taken by port `p`'s handler (R143). -/
def execVanPolicy (p : Port) (s : State) : Host.Outcome State Fault Refusal := .next (s.handle .vanPolicy p vanPolicyBody)

/-! ### TAG WINDOW and the index rebuild (R9, R10) -/

/-- TAG WINDOW (R9, R145): refused outside CONFIGURE; otherwise a rebuild begins, and the answer waits for its end. -/
def tagWindowBody (m : Msg) (s : State) : State × Option Msg :=
  match m.payload with
  | [w] =>
    if s.mode = .configure then
      ({ s with rebuild := some { window := min maxWindow w.toNat, clamped := maxWindow < w.toNat } }, none)
    else refuse m s .wrongMode
  | _ => (s, none)

/-- TAG WINDOW taken by port `p`'s handler (R9). -/
def execTagWindow (p : Port) (s : State) : Host.Outcome State Fault Refusal := .next (s.handle .tagWindow p tagWindowBody)

/-- A new index being computed: its entries so far. -/
abbrev IndexSlots := Vector (Option (Fin 64)) 256

/-- One roster slot of the rebuild (R9): written into the entry of its tag under the new window if that is still empty; an
entry that holds an earlier slot is a collision. -/
def State.rebuildSlot (s : State) (w : Nat) (acc : Option IndexSlots) (k : Fin 64) : Option IndexSlots :=
  match acc, s.entry k with
  | some v, some e => if (v[tagEntry w e.tag]).isSome then none else some (v.set (tagEntry w e.tag).val (some k))
  | r, _ => r

/-- The new index under window start `w` (R9): every occupied slot in slot order; none on a collision. -/
def State.rebuiltIndex (s : State) (w : Nat) : Option IndexSlots :=
  allSlots.foldl (s.rebuildSlot w) (some (Vector.replicate 256 none))

/-- The ANSWER to TAG WINDOW, formed at rebuild end (R10). Its Unit is the 0xFF that check 5 of R106 required. -/
def tagWindowAnswer (result : Mask) : Msg := answerTo Kind.tagWindow.code 0xFF result []

/-- The index rebuild ends (R10): the new index and window replace the old, or, on a collision, are discarded; the answer is
formed and the D-port handler released. DEDUCED (log 13). -/
def State.endRebuild (s : State) (r : Rebuild) : State :=
  let t := { s with rebuild := none }
  match s.rebuiltIndex r.window with
  | some v => ({ t with index := { slots := v, window := r.window } }).reply .d (tagWindowAnswer (okResult r.clamped))
  | none => t.reply .d (tagWindowAnswer Flag.collision.result)

/-- INDEX_REBUILD_END (R10): the rebuild in flight ends. -/
def execIndexRebuildEnd (s : State) : Host.Outcome State Fault Refusal :=
  .next (if s.resetLow then s
    else match s.rebuild with
      | some r => s.endRebuild r
      | none => s)

end Sys2Proof.Machine
end

