-- ==== Sys2Proof/Machine/HandlerChecks.lean ====
section
/-!
DEFINITION. The meanings of the items a handler answers or drops by its own first checks (R106): payload-failure entries,
unknown and outbound kinds, and KEEPALIVE.
-/
namespace Sys2Proof.Machine

/-- PAYLOAD_CHECK (R106, check 1): a payload-failure entry is answered PAYLOAD CHECK, echoing its Kind and Unit. -/
def execPayloadCheck (p : Port) (s : State) : Host.Outcome State Fault Refusal :=
  .next (match s.offered p with
    | some (.failed k u) => (s.take p).reply p (answerTo k u Flag.payloadCheck.result [])
    | _ => s)

/-- The answer to an item whose Kind the table does not accept inbound anywhere (R106, checks 2 and 3): UNKNOWN KIND for a
code absent from the table, WRONG PORT for an outbound kind; none for any other. -/
def unknownAnswer (m : Msg) : Option Msg :=
  match Kind.ofCode m.kind with
  | none => some (m.answer Flag.unknownKind.result)
  | some k => if k.outbound then some (m.answer Flag.wrongPort.result) else none

/-- UNKNOWN_KIND (R106). -/
def execUnknownKind (p : Port) (s : State) : Host.Outcome State Fault Refusal :=
  .next (match s.offered p with
    | some (.message m) =>
      match unknownAnswer m with
      | some r => (s.take p).reply p r
      | none => s
    | _ => s)

/-- KEEPALIVE (R106, R138): no effect at the handler; its acceptance has already been counted. -/
def execKeepalive (p : Port) (s : State) : Host.Outcome State Fault Refusal :=
  .next (s.handle .keepalive p fun _ t => (t, none))

end Sys2Proof.Machine
end

