-- ==== Sys2Proof/Machine/Crc.lean ====
section
/-!
DEFINITION. The two checks of a message: the CRC-8 of the header (R101) and the CRC-16 of the payload (R102), and
the characters a message makes on the line.
-/
namespace Sys2Proof.Machine

/-- One bit of the CRC-8 with generator x^8 + x^2 + x + 1 (R101). -/
def crc8Bit (r : BitVec 8) : BitVec 8 := if r.msb then (r <<< 1) ^^^ 0x07 else r <<< 1

/-- The CRC-8 taken over one more byte, most significant bit first (R101). -/
def crc8Byte (r b : Byte) : Byte := Nat.repeat crc8Bit 8 (r ^^^ b)

/-- The header check over the given bytes: the register starts at 0x00 (R101). -/
def crc8 (bytes : List Byte) : Byte := bytes.foldl crc8Byte 0

/-- One bit of the CRC-16 with generator x^16 + x^12 + x^5 + 1 (R102). -/
def crc16Bit (r : BitVec 16) : BitVec 16 := if r.msb then (r <<< 1) ^^^ 0x1021 else r <<< 1

/-- The CRC-16 taken over one more byte, most significant bit first (R102). -/
def crc16Byte (r : BitVec 16) (b : Byte) : BitVec 16 := Nat.repeat crc16Bit 8 (r ^^^ (b ++ (0 : BitVec 8)))

/-- The payload check over the given bytes: the register starts at 0xFFFF (R102). -/
def crc16 (bytes : List Byte) : BitVec 16 := bytes.foldl crc16Byte 0xFFFF

/-- The characters of a message on the line: header, header check, and, when there is a payload, the payload and its
check, high byte first (R101, R102). -/
def Msg.line (m : Msg) : List Byte :=
  let len : Byte := BitVec.ofNat 8 m.payload.length
  [m.kind, m.unit, len, crc8 [m.kind, m.unit, len]] ++
    if m.payload = [] then [] else m.payload ++ byte2 (crc16 m.payload).toNat

end Sys2Proof.Machine
end

