-- ==== Sys2Proof/Machine/Links.lean ====
section
/-!
DEFINITION. Link Health (chapter 7) and the receivers (chapter 6): the outcome of each message and framing error, detach
and rejoin, the inbound buffers, and the delimiting of messages.
-/
namespace Sys2Proof.Machine

/-! ### Detach and rejoin -/

/-- What a port keeps when it becomes DETACHED (R118): the receiver goes on; count 255, buffers and queue lost, the message
being sent cut off. -/
def LinkPort.detached (r : LinkPort) : LinkPort :=
  { r with errors := 255, health := .detached, rejoin := 0, buffers := [], queue := [], tx := .idle }

/-- The effects of a cabinet port's detach on its bays, board and freshness (R119). -/
def State.detachCabinet (s : State) (c : Fin 4) : State :=
  let t := s.mapBays fun b x => if cabinetOf b = c then { x with reachable := false } else x
  let u := t.setCabinet c { s.cabinet c with silence := none, roundEnd := false }
  { u with pub := { u.pub with
      board := Vector.ofFn fun b => if cabinetOf b = c then none else s.board b
      pending := Vector.ofFn fun b => if cabinetOf b = c then none else s.pendingInc b } }

/-- A port becomes DETACHED (R118, R119). -/
def State.detach (s : State) (p : Port) : State :=
  let t := s.setPort p (s.port p).detached
  (match p with
    | .c n => t.detachCabinet n
    | _ => t).evalLinkTrouble

/-- A cabinet port's silence timer starts or restarts, in RUN or HOLD (R120). -/
def State.restartSilence (s : State) (c : Fin 4) : State :=
  if s.mode = .configure then s
  else s.setCabinet c { s.cabinet c with silence := some (2 * s.settings.roundLength) }

/-- A port rejoins (R122): counts 0 and SOUND; on a cabinet port the eight bays become reachable with resync set, and the
silence timer restarts in RUN or HOLD. -/
def State.rejoin (s : State) (p : Port) : State :=
  let t := s.setPort p { s.port p with errors := 0, health := .sound, rejoin := 0 }
  (match p with
    | .c n => (t.mapBays fun b x =>
        if cabinetOf b = n then { x with reachable := true, resync := true } else x).restartSilence n
    | _ => t).evalLinkTrouble

/-! ### Outcomes (R103, R116, R121) -/

/-- A rejected message or a framing error: +8, or, on a DETACHED port, the rejoin count to 0. -/
def State.reject (s : State) (p : Port) : State :=
  let r := s.port p
  if r.health = .detached then s.setPort p { r with rejoin := 0 }
  else if 255 ≤ r.errors + 8 then s.detach p
  else (s.setPort p { r with errors := r.errors + 8, health := healthOf (r.errors + 8) }).evalLinkTrouble

/-- An accepted message on a port that is not DETACHED: −1, and a cabinet port's silence timer restarts (R116, R120). -/
def State.accept (s : State) (p : Port) : State :=
  let r := s.port p
  let t := (s.setPort p { r with errors := r.errors - 1, health := healthOf (r.errors - 1) }).evalLinkTrouble
  match p with
  | .c n => t.restartSilence n
  | _ => t

/-- An accepted message on a DETACHED port (R121): a KEEPALIVE advances the rejoin count, and at 16 the port rejoins; any
other message is discarded. -/
def State.acceptDetached (s : State) (p : Port) (kind : Byte) : State :=
  let r := s.port p
  if kind = Kind.keepalive.code then
    if 16 ≤ r.rejoin + 1 then s.rejoin p else s.setPort p { r with rejoin := r.rejoin + 1 }
  else s

/-- INBOUND OVERRUN goes to the D-set from the D-port and to the S-set from every other port (R104). -/
def State.overrun (s : State) (p : Port) : State :=
  if p = .d then s.raiseD .inboundOverrun else s.raiseS .inboundOverrun

/-- The receiver hands an item on (R104): it joins the queue, or, both buffers full, is dropped with INBOUND OVERRUN. A
DETACHED port hands nothing on (R103). -/
def State.handOn (s : State) (p : Port) (x : Item) : State :=
  let r := s.port p
  if r.health = .detached then s
  else if r.buffers.length < 2 then s.setPort p { r with buffers := r.buffers ++ [x] }
  else s.overrun p

/-! ### Receivers (R100 to R103) -/

/-- Write port `p`'s receiver. -/
def State.setRx (s : State) (p : Port) (x : Receiver) : State := s.setPort p { s.port p with rx := x }

/-- A header of four bytes that fails (R101): its check does not match, or its Length is above 60. -/
def headerBad : List Byte → Bool
  | k :: u :: l :: h :: _ => crc8 [k, u, l] != h || 60 < l.toNat
  | _ => false

/-- A message received to its full length (R100): 4 bytes when the Length byte is 0, and 4 + Length + 2 otherwise. -/
def fullLength : List Byte → Bool
  | _ :: _ :: l :: _ :: rest => rest.length == if l = 0 then 0 else l.toNat + 2
  | _ => false

/-- A header fault is due on port `p`: its receiver holds a bad header. -/
def State.headerDue (s : State) (p : Port) : Bool :=
  match (s.port p).rx with
  | .receiving bytes => headerBad bytes
  | _ => false

/-- The end of a message is due on port `p`: its receiver holds a message of full length with a good header. -/
def State.messageDue (s : State) (p : Port) : Bool :=
  match (s.port p).rx with
  | .receiving bytes => !headerBad bytes && fullLength bytes
  | _ => false

/-- The message of a full-length character list, and whether its payload check matches or there is no payload (R102). -/
def parseMessage : List Byte → Option (Msg × Bool)
  | k :: u :: l :: _ :: rest =>
    let payload := rest.take l.toNat
    some ({ kind := k, unit := u, payload := payload }, l == 0 || rest.drop l.toNat == byte2 (crc16 payload).toNat)
  | _ => none

/-- A kind code marked a request in the table (R102). -/
def requestCode (k : Byte) : Bool :=
  match Kind.ofCode k with
  | some x => x.isRequest
  | none => false

/-- A header fault (R101): rejected silently, and the receiver enters HUNT at once. -/
def State.faultHeader (s : State) (p : Port) : State := (s.setRx p (.hunt false)).reject p

/-- The outcome of a complete message (R102, R103). DEDUCED: Link Health first (log 10). -/
def State.deliver (s : State) (p : Port) (m : Msg) (good : Bool) : State :=
  if good then
    if (s.port p).health = .detached then s.acceptDetached p m.kind else (s.accept p).handOn p (.message m)
  else if (s.port p).health ≠ .detached ∧ requestCode m.kind = true then
    (s.reject p).handOn p (.failed m.kind m.unit)
  else s.reject p

/-- A message is complete (R100, R103): the receiver hands it to the checks and returns to HUNT. -/
def State.completeMessage (s : State) (p : Port) : State :=
  match (s.port p).rx with
  | .receiving bytes =>
    match parseMessage bytes with
    | some (m, good) => (s.setRx p (.hunt true)).deliver p m good
    | none => s
  | _ => s

/-- A framing error (R100): the receiver discards what it has, enters HUNT, and the rejection is counted. -/
def State.frameError (s : State) (p : Port) : State := (s.setRx p (.hunt false)).reject p

/-- The end of a message or of a bad header is taken with its last character (R100, R101): before anything further on the
line, what is due has been taken. DEDUCED (log 6). -/
def State.settle (s : State) (p : Port) : State :=
  if s.headerDue p then s.faultHeader p
  else if s.messageDue p then s.completeMessage p
  else s

/-- The receiver listens: RESET is high (R163) and the port's cabinet is strapped present (R99). -/
def State.listens (s : State) (p : Port) : Bool := !s.resetLow && s.present p

/-- A good character on port `p`'s line (R100). -/
def State.character (s : State) (p : Port) (b : Byte) : State :=
  match (s.port p).rx with
  | .hunt true => s.frameError p
  | .hunt false => s
  | .ready => s.setRx p (.receiving [b])
  | .receiving bytes => s.setRx p (.receiving (bytes ++ [b]))

/-- The framing error of the given cause comes about in the receiver's present state (R100). -/
def framingArises (cause : FramingCause) (rx : Receiver) : Bool :=
  match cause, rx with
  | .gap, .receiving _ => true
  | .lowStop, .receiving _ => true
  | .lowStop, .ready => true
  | .lowStop, .hunt true => true
  | .afterComplete, .hunt true => true
  | _, _ => false

end Sys2Proof.Machine
end

