-- ==== Sys2Proof/Machine/LinkEvents.lean ====
section
/-!
DEFINITION. The meanings of the link events: characters, framing, message completion, header fault, silence, and the
transmitter's steps (chapters 6 and 7). An event whose condition does not hold in the state does not come about, and
nothing changes (log 3).
-/
namespace Sys2Proof.Machine

/-- CHARACTER_RECEIVED (R100): in READY the character opens a message, in RECEIVING it is appended, in HUNT it restarts the
idle measurement; the first one in HUNT after a completed message is a framing error. -/
def execCharacterReceived (p : Port) (b : Byte) (s : State) : Host.Outcome State Fault Refusal :=
  .next (if s.listens p then (s.settle p).character p b else s)

/-- MESSAGE_COMPLETE (R103): the message received to its full length is checked, counted and handed on. -/
def execMessageComplete (p : Port) (s : State) : Host.Outcome State Fault Refusal :=
  .next (if s.listens p && s.messageDue p then s.completeMessage p else s)

/-- HEADER_FAULT (R101): the bad header received is rejected silently. -/
def execHeaderFault (p : Port) (s : State) : Host.Outcome State Fault Refusal :=
  .next (if s.listens p && s.headerDue p then s.faultHeader p else s)

/-- FRAMING_ERROR (R100): of the causes gap, low stop bit, and first character in HUNT after a completed message. -/
def execFramingError (p : Port) (cause : FramingCause) (s : State) : Host.Outcome State Fault Refusal :=
  .next (if s.listens p then
      let t := s.settle p
      if framingArises cause (t.port p).rx then t.frameError p else t
    else s)

/-- IDLE_GAP_ELAPSED (R100): a receiver in HUNT enters READY. -/
def execIdleGapElapsed (p : Port) (s : State) : Host.Outcome State Fault Refusal :=
  .next (if s.listens p then
      let t := s.settle p
      match (t.port p).rx with
      | .hunt _ => t.setRx p .ready
      | _ => t
    else s)

/-- SILENCE_TIMER_EXPIRY (R120): the running silence timer of cabinet port C`c` expires; the port becomes DETACHED. -/
def execSilenceTimerExpiry (c : Fin 4) (s : State) : Host.Outcome State Fault Refusal :=
  .next (if !s.resetLow && (s.cabinet c).silence.isSome then s.detach (.c c) else s)

/-! ### Transmitter -/

/-- The SETPOINT of a board entry (R140). -/
def setpointMsg (o : Fin 8) (v : Nat × Seq) : Msg :=
  { kind := Kind.setpoint.code, unit := BitVec.ofNat 8 o.val, payload := byte2 v.1 ++ byte1 v.2.toNat }

/-- The bay of the lowest-numbered outlet that holds a board entry, with the entry (R110). -/
def State.firstEntry (s : State) (c : Fin 4) : Option (Fin 32 × (Nat × Seq)) :=
  (baysOf c).findSome? fun b => (s.board b).map fun v => (b, v)

/-- The head of the answer queue begins to be sent, freeing its place; with none, the transmitter returns to IDLE
(R110). DEDUCED (log 18). -/
def State.sendReply (s : State) (p : Port) : State :=
  let r := s.port p
  match r.queue with
  | m :: rest => s.setPort p { r with queue := rest, tx := .sending m }
  | [] => s.setPort p { r with tx := .idle }

/-- The choice at the end of GAP (R110): on a cabinet port the setpoint board comes first, lowest outlet first; then the
head of the answer queue. -/
def State.beginSending (s : State) (p : Port) : State :=
  match p with
  | .c n =>
    match s.firstEntry n with
    | some (b, v) =>
      let t := s.setBoard b none
      t.setPort p { t.port p with tx := .sending (setpointMsg (outletOf b) v) }
    | none => s.sendReply p
  | _ => s.sendReply p

/-- END_OF_GAP (R110). -/
def execEndOfGap (p : Port) (s : State) : Host.Outcome State Fault Refusal :=
  .next (if !s.resetLow && (s.port p).tx == .gap then s.beginSending p else s)

/-- The transmitter is sending a message. -/
def LinkPort.isSending (r : LinkPort) : Bool :=
  match r.tx with
  | .sending _ => true
  | _ => false

/-- MESSAGE_SENT (R110): the transmitter returns to IDLE, and enters GAP again if it has more to send. -/
def execMessageSent (p : Port) (s : State) : Host.Outcome State Fault Refusal :=
  .next (if !s.resetLow && (s.port p).isSending then (s.setPort p { s.port p with tx := .idle }).kick p else s)

end Sys2Proof.Machine
end

