-- ==== Sys2Proof/Machine/Restart.lean ====
section
/-!
DEFINITION. RESTART (R161, R162) and RESET (R163): what the part loses and keeps.
-/
namespace Sys2Proof.Machine

/-- A bay record after RESTART (R26): its power-on contents, with its slot kept. -/
def Bay.restarted (x : Bay) : Bay := Bay.powerOn x.slot

/-- Delivered energy recorded at a bay, for the entry plugged there; 0 out of session. -/
def State.deliveredAt (s : State) (b : Fin 32) : Nat := (((s.bay b).session).map (·.delivered)).getD 0

/-- A roster entry at RESTART (R26): PLUGGED becomes WAITING whatever its departure, with last session energy recorded. -/
def State.restartEntry (s : State) (e : Entry) : Entry :=
  match e.state with
  | .plugged b _ => { e with state := .waiting, lastEnergy := some (s.deliveredAt b) }
  | _ => e

/-- A port at RESTART (R114, R161): receiver and transmitter go on; count 0, SOUND, rejoin 0; the buffers and the queue are
emptied unless the port is the S-port. -/
def LinkPort.restarted (r : LinkPort) (keep : Bool) : LinkPort :=
  { r with errors := 0, health := .sound, rejoin := 0
           buffers := if keep then r.buffers else []
           queue := if keep then r.queue else [] }

/-- The six ports at RESTART, in the order D, S, C0 to C3. -/
def State.restartPorts (s : State) : Vector LinkPort 6 :=
  Vector.ofFn fun i => (s.ports[i]).restarted (i == portIdx .s)

/-- A notice set at RESTART (R169): every pending bit cleared, the enables kept, no condition standing yet. -/
def NoticeSet.restarted (n : NoticeSet) : NoticeSet := { pending := 0, enable := n.enable, cond := 0 }

/-- Every block's loss at RESTART (R161, R162), before the held conditions that still stand are raised again. -/
def State.restartBlocks (s : State) : State :=
  { s with
    mode := .configure
    pendingMode := none
    bays := Vector.ofFn fun b => (s.bay b).restarted
    roster := Vector.ofFn fun k => (s.entry k).map s.restartEntry
    rebuild := none
    alloc := { timer := none, snap := none, marks := Vector.replicate 32 false, order := [], early := false }
    pub := { pending := Vector.replicate 32 none, board := Vector.replicate 32 none, used := 0, slotTimes := [] }
    ports := s.restartPorts
    cabinets := Vector.replicate 4 Cabinet.powerOn
    dset := s.dset.restarted
    sset := s.sset.restarted }

/-- Each held condition is taken as the blocks hand it over (R169). -/
def State.handConditions (s : State) : State :=
  s.evalOverdue.evalAtRisk.evalExceeded.evalShed.evalLinkTrouble.evalStaleCabinet.evalLoadStale.evalUnconfirmed

/-- RESTART (R161): the blocks' effects, then the conditions that still stand. -/
def State.restart (s : State) : State := s.restartBlocks.handConditions

/-- A port while RESET is low (R163): the message being received and the message being sent are lost. -/
def LinkPort.cutOff (r : LinkPort) : LinkPort := { r with rx := .hunt false, tx := .idle }

/-- RESET falls (R163): everything in flight is lost (pass, rebuild, round, pending mode, messages being received and sent)
and every timer stops. DEDUCED (log 12). -/
def State.assertReset (s : State) : State :=
  { s with
    resetLow := true
    pendingMode := none
    rebuild := none
    alloc := { s.alloc with timer := none, snap := none, marks := Vector.replicate 32 false, early := false }
    pub := { s.pub with pending := Vector.replicate 32 none, slotTimes := [] }
    ports := Vector.ofFn fun i => (s.ports[i]).cutOff
    cabinets := Vector.ofFn fun c => { s.cabinet c with silence := none } }

end Sys2Proof.Machine
end

