-- ==== Sys2Proof/Machine/ResetEvents.lean ====
section
/-!
DEFINITION. The meanings of the RESET events (R163).
-/
namespace Sys2Proof.Machine

/-- RESET_ASSERTED (R163): RESET falls; while it is already low nothing changes. -/
def execResetAsserted (s : State) : Host.Outcome State Fault Refusal :=
  .next (if s.resetLow then s else s.assertReset)

/-- RESET_RELEASE (R163): RESET rises; the straps are sampled and every block takes its power-on values. The commands that
wait are the senders', not the part's, and are kept. -/
def execResetRelease (cabs baud : BitVec 2) (pins : Byte) (s : State) : Host.Outcome State Fault Refusal :=
  .next (if s.resetLow then { State.powerOn cabs baud pins with pending := s.pending } else s)

end Sys2Proof.Machine
end

