-- ==== Sys2Proof/Machine/SharedMessages.lean ====
section
/-!
DEFINITION. The meanings of the requests that the D-port and the S-port share (R154): READ, REPLY LIMIT, NOTICE ENABLE,
NOTICE CLEAR. Each acts for the asking port alone.
-/
namespace Sys2Proof.Machine

/-- READ (R112), with the levels on GP7:0 at that moment (R170) and the level of GP1 as its filter has recognised it (R173). -/
def readBody (p : Port) (pins : PinReading) (m : Msg) (s : State) : State × Option Msg :=
  match m.payload with
  | [item] => (s.recognise pins.rise, some ((s.recognise pins.rise).readReply p pins.levels m item))
  | _ => (s, none)

/-- READ taken by port `p`'s handler (R112). -/
def execRead (p : Port) (pins : PinReading) (s : State) : Host.Outcome State Fault Refusal :=
  .next (s.handle .read p (readBody p pins))

/-- The asking port's reply limit is set (R111). -/
def State.setLimit (s : State) (p : Port) (n : Nat) : State :=
  if p = .d then { s with settings := { s.settings with limitD := n } }
  else { s with settings := { s.settings with limitS := n } }

/-- REPLY LIMIT (R111). -/
def replyLimitBody (p : Port) (m : Msg) (s : State) : State × Option Msg :=
  match m.payload with
  | [n] => done m (s.setLimit p (clampLimit n.toNat)) (clampLimit n.toNat != n.toNat)
  | _ => (s, none)

/-- REPLY LIMIT taken by port `p`'s handler (R111). -/
def execReplyLimit (p : Port) (s : State) : Host.Outcome State Fault Refusal :=
  .next (s.handle .replyLimit p (replyLimitBody p))

/-- Change the notice set of the asking port, with the bits that name its flags (R154). -/
def State.onSet (s : State) (p : Port) (f : NoticeSet → Mask → NoticeSet) : State :=
  if p = .d then { s with dset := f s.dset dsetBits } else { s with sset := f s.sset ssetBits }

/-- NOTICE ENABLE (R167): the mask replaces the enables of the asking port's set whole. -/
def noticeEnableBody (p : Port) (m : Msg) (s : State) : State × Option Msg :=
  match m.payload with
  | [hi, lo] => done m (s.onSet p fun n bits => n.setEnable (hi ++ lo) bits) false
  | _ => (s, none)

/-- NOTICE ENABLE taken by port `p`'s handler (R167). -/
def execNoticeEnable (p : Port) (s : State) : Host.Outcome State Fault Refusal :=
  .next (s.handle .noticeEnable p (noticeEnableBody p))

/-- NOTICE CLEAR (R167): the named flags of the asking port's set are cleared, a held flag only if its condition no longer
stands. -/
def noticeClearBody (p : Port) (m : Msg) (s : State) : State × Option Msg :=
  match m.payload with
  | [hi, lo] => done m (s.onSet p fun n bits => n.clear ((hi ++ lo) &&& bits)) false
  | _ => (s, none)

/-- NOTICE CLEAR taken by port `p`'s handler (R167). -/
def execNoticeClear (p : Port) (s : State) : Host.Outcome State Fault Refusal :=
  .next (s.handle .noticeClear p (noticeClearBody p))

end Sys2Proof.Machine
end

