-- ==== Sys2Proof/Machine/SiteMessages.lean ====
section
/-!
DEFINITION. The meanings of the S-port requests (chapters 3, 7, 9 and 10).
-/
namespace Sys2Proof.Machine

/-! ### SITE LIMIT, LOAD REPORT, RAMP LIMIT (R38, R39, R46) -/

/-- SITE LIMIT (R38): P_site, ENVELOPE EXCEEDED, and the early-round request. -/
def siteLimitBody (m : Msg) (s : State) : State × Option Msg :=
  match m.payload with
  | [hi, lo] => done m (({ s with env := { s.env with pSite := field16 hi lo } }).evalExceeded.requestIfExceeded) false
  | _ => (s, none)

/-- SITE LIMIT taken by port `p`'s handler (R38). -/
def execSiteLimit (p : Port) (s : State) : Host.Outcome State Fault Refusal := .next (s.handle .siteLimit p siteLimitBody)

/-- LOAD REPORT (R39): O, load-stale and its count, ENVELOPE EXCEEDED, LOAD STALE, and the early-round request. -/
def loadReportBody (m : Msg) (s : State) : State × Option Msg :=
  match m.payload with
  | [hi, lo] =>
    done m (({ s with env := { s.env with other := field16 hi lo, stale := false, rounds := 0 } }).evalExceeded.evalLoadStale.requestIfExceeded)
      false
  | _ => (s, none)

/-- LOAD REPORT taken by port `p`'s handler (R39). -/
def execLoadReport (p : Port) (s : State) : Host.Outcome State Fault Refusal :=
  .next (s.handle .loadReport p loadReportBody)

/-- RAMP LIMIT (R46). -/
def rampLimitBody (m : Msg) (s : State) : State × Option Msg :=
  match m.payload with
  | [hi, lo] => done m { s with env := { s.env with ramp := field16 hi lo } } false
  | _ => (s, none)

/-- RAMP LIMIT taken by port `p`'s handler (R46). -/
def execRampLimit (p : Port) (s : State) : Host.Outcome State Fault Refusal := .next (s.handle .rampLimit p rampLimitBody)

/-! ### MODE REQUEST (R146) -/

/-- The mode of a code (section 6.9). -/
def modeOfCode (b : Byte) : Option Mode :=
  match b.toNat with
  | 0 => some .configure
  | 1 => some .run
  | 2 => some .hold
  | _ => none

/-- A mode of 0 to 2 is taken (R146): held as the pending mode while a pass is in flight, at once otherwise. -/
def State.requestMode (s : State) (m : Mode) : State :=
  if s.alloc.snap.isSome then { s with pendingMode := some m } else s.changeMode m

/-- MODE REQUEST (R146). -/
def modeRequestBody (m : Msg) (s : State) : State × Option Msg :=
  match m.payload with
  | [b] =>
    match modeOfCode b with
    | none => refuse m s .badUnit
    | some x => done m (s.requestMode x) false
  | _ => (s, none)

/-- MODE REQUEST taken by port `p`'s handler (R146). -/
def execModeRequest (p : Port) (s : State) : Host.Outcome State Fault Refusal :=
  .next (s.handle .modeRequest p modeRequestBody)

/-! ### RESTART (R147, R161) -/

/-- RESTART (R147): its effects, and only then the ANSWER, which joins the S-port's kept queue. -/
def restartBody (m : Msg) (s : State) : State × Option Msg := done m s.restart false

/-- RESTART taken by port `p`'s handler (R161). -/
def execRestart (p : Port) (s : State) : Host.Outcome State Fault Refusal := .next (s.handle .restart p restartBody)

/-! ### RELEASE CABINET (R125) -/

/-- Every bay of the cabinet that is in session ends its session, in bay order (R125). -/
def State.releaseBays (s : State) (c : Fin 4) : State := (baysOf c).foldl State.endSession s

/-- RELEASE CABINET (R125, R153). -/
def releaseCabinetBody (m : Msg) (s : State) : State × Option Msg :=
  let c : Fin 4 := ⟨m.unit.toNat % 4, by omega⟩
  if s.present (.c c) = false then refuse m s .badUnit
  else if (s.port (.c c)).health ≠ .detached then refuse m s .wrongState
  else done m (s.releaseBays c) false

/-- RELEASE CABINET taken by port `p`'s handler (R125). -/
def execReleaseCabinet (p : Port) (s : State) : Host.Outcome State Fault Refusal :=
  .next (s.handle .releaseCabinet p releaseCabinetBody)

/-! ### ALLOCATION SETUP, SLOT ASSIGN (R149, R150) -/

/-- ALLOCATION SETUP (R149). -/
def allocationSetupBody (m : Msg) (s : State) : State × Option Msg :=
  match m.payload with
  | [p1, p0, r] =>
    if s.mode = .configure then
      let v := field16 p1 p0
      done m { s with settings := { s.settings with pmin := min maxPmin v, roundLength := clampRound r.toNat } }
        (maxPmin < v || clampRound r.toNat != r.toNat)
    else refuse m s .wrongMode
  | _ => (s, none)

/-- ALLOCATION SETUP taken by port `p`'s handler (R149). -/
def execAllocationSetup (p : Port) (s : State) : Host.Outcome State Fault Refusal :=
  .next (s.handle .allocationSetup p allocationSetupBody)

/-- SLOT ASSIGN (R150): the mode, then the slot's range, then the bay's slot. -/
def slotAssignBody (m : Msg) (s : State) : State × Option Msg :=
  match m.payload with
  | [k] =>
    let b : Fin 32 := ⟨m.unit.toNat % 32, by omega⟩
    if s.mode = .configure then
      if h : k.toNat < 4 then done m (s.setBay b { s.bay b with slot := ⟨k.toNat, h⟩ }) false
      else refuse m s .badUnit
    else refuse m s .wrongMode
  | _ => (s, none)

/-- SLOT ASSIGN taken by port `p`'s handler (R150). -/
def execSlotAssign (p : Port) (s : State) : Host.Outcome State Fault Refusal :=
  .next (s.handle .slotAssign p slotAssignBody)

/-! ### PIN SETUP, PIN WRITE (R151, R152) -/

/-- PIN SETUP (R151): in CONFIGURE both masks are taken; in RUN or HOLD the direction mask alone, when the function mask is
the one in force. -/
def pinSetupBody (pins : Byte) (m : Msg) (s : State) : State × Option Msg :=
  match m.payload with
  | [fn, dir] =>
    if s.mode = .configure then done m (s.setupPins fn dir pins) false
    else if fn = s.pins.fn then done m { s with pins := { s.pins with dir := dir } } false
    else refuse m s .wrongMode
  | _ => (s, none)

/-- PIN SETUP taken by port `p`'s handler (R151). -/
def execPinSetup (p : Port) (pins : Byte) (s : State) : Host.Outcome State Fault Refusal :=
  .next (s.handle .pinSetup p (pinSetupBody pins))

/-- PIN WRITE (R152). -/
def pinWriteBody (m : Msg) (s : State) : State × Option Msg :=
  match m.payload with
  | [l] => done m { s with pins := { s.pins with latch := l } } false
  | _ => (s, none)

/-- PIN WRITE taken by port `p`'s handler (R152). -/
def execPinWrite (p : Port) (s : State) : Host.Outcome State Fault Refusal := .next (s.handle .pinWrite p pinWriteBody)

end Sys2Proof.Machine
end

