-- ==== Sys2Proof/Machine/TimedEvents.lean ====
section
/-!
DEFINITION. The meanings of the clock, round and shed events (chapters 2, 3 and 5). An event whose condition does not hold
in the state does not come about, and nothing changes (log 3); the moments at which timers expire are the sender's
(log 4).
-/
namespace Sys2Proof.Machine

/-! ### Depot Clock -/

/-- The clock runs on the internal time base: GP1 is not dedicated to MINUTE (R28). -/
def State.internalBase (s : State) : Bool := !s.dedicated 1

/-- The wrap of the second counter from 59 to 0, with its minute event (R28). -/
def State.wrapSecond (s : State) : State :=
  ({ s with clock := { s.clock with second := 0, fraction := 0 } }).minuteTick

/-- SECOND_COMPLETE (R28): the second fraction returns to 0 and the second counter advances; at 59 it wraps to 0 and the
clock takes a minute event. A CLOCK SET taken before is no longer together with a minute event to come (log 7). -/
def execSecondComplete (s : State) : Host.Outcome State Fault Refusal :=
  .next (if !s.resetLow && s.internalBase then
      let t := { s with clock := { s.clock with overtaken := false } }
      if s.clock.second < 59 then { t with clock := { t.clock with second := s.clock.second + 1, fraction := 0 } }
      else t.wrapSecond
    else s)

/-- A minute event that came together with a CLOCK SET taken before it (R35): the shift minute advances from the value
set, and the second counter goes on from the second set. DEDUCED (log 7). -/
def State.overtakenMinute (s : State) : State := ({ s with clock := { s.clock with overtaken := false } }).minuteTick

/-- MINUTE_EVENT (R28, R35): the second counter, at 59, wraps to 0 and the shift minute advances; away from 59 the event is
one that a CLOCK SET may have overtaken, if there is one. DEDUCED (log 7). -/
def execMinuteEvent (s : State) : Host.Outcome State Fault Refusal :=
  .next (if !s.resetLow && s.internalBase then
      if s.clock.second == 59 then s.wrapSecond
      else if s.clock.overtaken then s.overtakenMinute
      else s
    else s)

/-- MINUTE_PULSE (R29, R173): a recognised falling edge of a GP1 dedicated to MINUTE is a minute event. -/
def execMinutePulse (s : State) : Host.Outcome State Fault Refusal :=
  .next (if !s.resetLow && s.dedicated 1 then ({ s with pins := { s.pins with gp1 := false } }).minuteTick else s)

/-- One period of the 8 MHz clock input on an empty queue (log 5): on the internal time base the second fraction counts it
(R28), staying just under one second until SECOND_COMPLETE. -/
def State.tick (s : State) : State :=
  if !s.resetLow && s.internalBase then
    { s with clock := { s.clock with fraction := min 7999999 (s.clock.fraction + 1) } }
  else s

/-! ### Load shedding -/

/-- SHED_ASSERTION (R44, R173): a recognised falling edge of a GP0 dedicated to SHED. -/
def execShedAssertion (s : State) : Host.Outcome State Fault Refusal :=
  .next (if !s.resetLow && s.dedicated 0 && s.pins.gp0 then
      ({ s with pins := { s.pins with gp0 := false } }).assertShed
    else s)

/-- SHED_RELEASE (R45, R173): a recognised rising edge of a GP0 dedicated to SHED. -/
def execShedRelease (s : State) : Host.Outcome State Fault Refusal :=
  .next (if !s.resetLow && s.dedicated 0 && !s.pins.gp0 then
      ({ s with pins := { s.pins with gp0 := true } }).releaseShed
    else s)

/-! ### Rounds -/

/-- ROUND_TIMER_EXPIRY (R77): the running round timer expires and a round starts; an expiry does not fall within a
pass. -/
def execRoundTimerExpiry (s : State) : Host.Outcome State Fault Refusal :=
  .next (if !s.resetLow && s.alloc.timer.isSome && s.alloc.snap.isNone then s.roundStart else s)

/-- PASS_COMPLETION (R82): the pass in flight completes. -/
def execPassCompletion (s : State) : Host.Outcome State Fault Refusal :=
  .next (if s.resetLow then s
    else match s.alloc.snap with
      | some sn => s.completePass sn
      | none => s)

/-- Slot `k`'s time is among the slot times still to come. -/
def State.slotDue (s : State) (k : Fin 4) : Bool := s.pub.slotTimes.any fun x => x.1 == k

/-- The slot times up to slot `k` are past. DEDUCED (log 21). -/
def State.passSlot (s : State) (k : Fin 4) : State :=
  { s with pub := { s.pub with slotTimes := s.pub.slotTimes.filter fun x => k < x.1 } }

/-- SLOT (R83, R86): the slot time of slot `k` comes, in RUN or HOLD with no pass in flight (R81), and the slot is taken. -/
def execSlot (k : Fin 4) (s : State) : Host.Outcome State Fault Refusal :=
  .next (if !s.resetLow && s.mode != .configure && s.alloc.snap.isNone && s.slotDue k then (s.passSlot k).takeSlot k
    else s)

end Sys2Proof.Machine
end

