-- ==== Sys2Proof/Machine/Dispatch.lean ====
section
/-!
DEFINITION. One arm per command: a direct call of its meaning.
-/
namespace Sys2Proof.Machine

def exec (i : Instr) (s : State) : Host.Outcome State Fault Refusal :=
  match i with
  | .messageComplete p => Sys2Proof.Machine.execMessageComplete p s
  | .headerFault p => Sys2Proof.Machine.execHeaderFault p s
  | .framingError p cause => Sys2Proof.Machine.execFramingError p cause s
  | .idleGapElapsed p => Sys2Proof.Machine.execIdleGapElapsed p s
  | .silenceTimerExpiry c => Sys2Proof.Machine.execSilenceTimerExpiry c s
  | .payloadCheck p => Sys2Proof.Machine.execPayloadCheck p s
  | .unknownKind p => Sys2Proof.Machine.execUnknownKind p s
  | .keepalive p => Sys2Proof.Machine.execKeepalive p s
  | .outlets p => Sys2Proof.Machine.execOutlets p s
  | .plug p => Sys2Proof.Machine.execPlug p s
  | .unplug p => Sys2Proof.Machine.execUnplug p s
  | .meter p => Sys2Proof.Machine.execMeter p s
  | .roundEnd p => Sys2Proof.Machine.execRoundEnd p s
  | .applied p => Sys2Proof.Machine.execApplied p s
  | .outletFault p => Sys2Proof.Machine.execOutletFault p s
  | .rosterPut p => Sys2Proof.Machine.execRosterPut p s
  | .rosterDrop p => Sys2Proof.Machine.execRosterDrop p s
  | .clockSet p => Sys2Proof.Machine.execClockSet p s
  | .vanPolicy p => Sys2Proof.Machine.execVanPolicy p s
  | .tagWindow p => Sys2Proof.Machine.execTagWindow p s
  | .indexRebuildEnd => Sys2Proof.Machine.execIndexRebuildEnd s
  | .read p pins => Sys2Proof.Machine.execRead p pins s
  | .replyLimit p => Sys2Proof.Machine.execReplyLimit p s
  | .noticeEnable p => Sys2Proof.Machine.execNoticeEnable p s
  | .noticeClear p => Sys2Proof.Machine.execNoticeClear p s
  | .siteLimit p => Sys2Proof.Machine.execSiteLimit p s
  | .loadReport p => Sys2Proof.Machine.execLoadReport p s
  | .rampLimit p => Sys2Proof.Machine.execRampLimit p s
  | .modeRequest p => Sys2Proof.Machine.execModeRequest p s
  | .restart p => Sys2Proof.Machine.execRestart p s
  | .releaseCabinet p => Sys2Proof.Machine.execReleaseCabinet p s
  | .allocationSetup p => Sys2Proof.Machine.execAllocationSetup p s
  | .slotAssign p => Sys2Proof.Machine.execSlotAssign p s
  | .pinSetup p pins => Sys2Proof.Machine.execPinSetup p pins s
  | .pinWrite p => Sys2Proof.Machine.execPinWrite p s
  | .endOfGap p => Sys2Proof.Machine.execEndOfGap p s
  | .messageSent p => Sys2Proof.Machine.execMessageSent p s
  | .secondComplete => Sys2Proof.Machine.execSecondComplete s
  | .minuteEvent => Sys2Proof.Machine.execMinuteEvent s
  | .minutePulse => Sys2Proof.Machine.execMinutePulse s
  | .shedAssertion => Sys2Proof.Machine.execShedAssertion s
  | .shedRelease => Sys2Proof.Machine.execShedRelease s
  | .roundTimerExpiry => Sys2Proof.Machine.execRoundTimerExpiry s
  | .passCompletion => Sys2Proof.Machine.execPassCompletion s
  | .slot k => Sys2Proof.Machine.execSlot k s
  | .resetAsserted => Sys2Proof.Machine.execResetAsserted s
  | .resetRelease cabs baud pins => Sys2Proof.Machine.execResetRelease cabs baud pins s
  | .characterReceived p b => Sys2Proof.Machine.execCharacterReceived p b s

end Sys2Proof.Machine
end

