-- ==== Sys2Proof/Safety.lean ====
section
/-!
DEFINITION. What a good state of the part is: the invariants the manual states of its blocks. The claims say that every
step keeps them.
-/
namespace Sys2Proof.Machine

/-! ### Links (chapters 6 and 7) -/

/-- A link port as R104, R109, R116, R118 and R121 leave it: count 0 to 255, health state following the count, at most two
items buffered and eight replies queued; DETACHED, nothing buffered, queued or being sent; not DETACHED, rejoin
count 0. -/
structure LinkPort.Ok (r : LinkPort) : Prop where
  errors : r.errors ≤ 255
  health : r.health = healthOf r.errors
  rejoin : r.rejoin < 16
  buffers : r.buffers.length ≤ 2
  queue : r.queue.length ≤ 8
  silent : r.health = .detached → r.buffers = [] ∧ r.queue = [] ∧ r.tx = .idle
  attached : r.health ≠ .detached → r.rejoin = 0

/-- Every port is as above, and during an index rebuild the D-port's answer queue keeps a place for its answer (R105). -/
structure State.LinksOk (s : State) : Prop where
  port : ∀ p : Port, (s.port p).Ok
  room : s.rebuild.isSome = true → (s.port .d).queue.length ≤ 7

/-- A bay is reachable exactly while its cabinet port is not DETACHED; a DETACHED cabinet port has an empty board, no pending
increase, a stopped silence timer and no round-end-seen flag (R119, R120, R122). -/
structure State.ReachOk (s : State) : Prop where
  reachable : ∀ b, (s.bay b).reachable = true ↔ (s.port (.c (cabinetOf b))).health ≠ .detached
  board : ∀ b, (s.bay b).reachable = false → s.board b = none ∧ s.pendingInc b = none
  cabinet : ∀ c, (s.port (.c c)).health = .detached → (s.cabinet c).silence = none ∧ (s.cabinet c).roundEnd = false

/-! ### Bays (chapter 1) -/

/-- The fields of a session lie in their ranges (R1), and state and disposition form one of the combinations of R2. -/
structure Session.Ok (x : Session) : Prop where
  pveh : x.pveh ≤ maxPower
  power : x.power ≤ maxPower
  delivered : x.delivered ≤ 65535
  active : x.phase = .active → (∃ k, x.disp = .rostered k) ∨ x.disp = .courtesy
  satisfied : x.phase = .satisfied → ∃ k, x.disp = .rostered k
  barred : x.phase = .barred → x.disp = .refused ∨ x.disp = .duplicate

/-- A bay record lies in its ranges (R1): outside session the setpoints, the sequence and the count are 0, UNFITTED has Pcap
0.0 kW, and in session the published setpoint is at most the live Plim (R93). -/
structure Bay.Ok (x : Bay) : Prop where
  pcap : x.pcap ≤ maxPower
  published : x.published ≤ maxPower
  confirmed : x.confirmed ≤ maxPower
  unconfirmed : x.unconfirmed ≤ 255
  unfitted : x.occ = .unfitted → x.pcap = 0
  outside : x.session = none → x.published = 0 ∧ x.confirmed = 0 ∧ x.seq = 0 ∧ x.unconfirmed = 0
  session : ∀ y, x.session = some y → y.Ok ∧ x.published ≤ x.plim

/-- Every bay record is as above, and a bay out of session has neither a board entry nor a pending increase (R23, R89). -/
structure State.BaysOk (s : State) : Prop where
  bay : ∀ b, (s.bay b).Ok
  outside : ∀ b, (s.bay b).session = none → s.board b = none ∧ s.pendingInc b = none

/-! ### Roster and Tag Index (chapter 1) -/

/-- The roster slot a bay names: that of a bay in session with disposition ROSTERED (R6). -/
def State.namedSlot (s : State) (b : Fin 32) : Option (Fin 64) :=
  match (s.bay b).session with
  | some x => match x.disp with
    | .rostered k => some k
    | _ => none
  | none => none

/-- The bay a roster entry names while PLUGGED (R5). -/
def State.namedBay (s : State) (k : Fin 64) : Option (Fin 32) :=
  match s.entry k with
  | some e => match e.state with
    | .plugged b _ => some b
    | _ => none
  | none => none

/-- Bay Table and Van Roster agree (R6): bay `b` names slot `k` exactly when slot `k`'s entry is PLUGGED at bay `b`. -/
def State.RosterOk (s : State) : Prop := ∀ b k, s.namedSlot b = some k ↔ s.namedBay k = some b

/-- The Tag Index holds every occupied slot at the entry of its tag, and nothing else (R7). -/
structure State.IndexOk (s : State) : Prop where
  held : ∀ k e, s.entry k = some e → s.indexAt (tagEntry s.index.window e.tag) = some k
  only : ∀ i k, s.indexAt i = some k → ∃ e, s.entry k = some e ∧ tagEntry s.index.window e.tag = i
  window : s.index.window ≤ maxWindow
  rebuild : ∀ r, s.rebuild = some r → r.window ≤ maxWindow

/-- The fields of a roster entry lie in their ranges (R5). -/
structure Entry.Ok (e : Entry) : Prop where
  departure : e.departure ≤ lastMinute
  target : e.target ≤ maxTarget
  cls : e.cls ≤ 3

/-- Every roster entry lies in its ranges (R5, R12). -/
def State.EntriesOk (s : State) : Prop := ∀ k e, s.entry k = some e → e.Ok

/-! ### Clock, envelope, settings (chapters 2, 3, 9) -/

/-- The Depot Clock lies in its ranges (R27); on the pulse time base the second counter and fraction are held at 0 (R29),
and no minute event of the internal time base is overtaken (log 7). -/
structure State.ClockOk (s : State) : Prop where
  minute : s.clock.minute ≤ lastMinute
  second : s.clock.second ≤ 59
  fraction : s.clock.fraction < 8000000
  pulse : s.dedicated 1 = true → s.clock.second = 0 ∧ s.clock.fraction = 0 ∧ s.clock.overtaken = false

/-- The Envelope Unit lies in its ranges (R37); load-stale is true exactly when the count is 3 (R39, R40); shed is in force
exactly while GP0 is dedicated and its recognised level is low (R42). -/
structure State.EnvelopeOk (s : State) : Prop where
  pSite : s.env.pSite ≤ 65535
  other : s.env.other ≤ 65535
  ramp : s.env.ramp ≤ 65535
  rounds : s.env.rounds ≤ 3
  stale : s.env.stale = true ↔ s.env.rounds = 3
  shed : s.env.shed = true ↔ s.dedicated 0 = true ∧ s.pins.gp0 = false

/-- The settings lie in their ranges: L_r (R77), Pmin and G (R54), the reply limits (R111). -/
structure State.SettingsOk (s : State) : Prop where
  round : 8 ≤ s.settings.roundLength ∧ s.settings.roundLength ≤ 120 ∧ s.settings.roundLength % 4 = 0
  pmin : s.settings.pmin ≤ maxPmin
  inForce : s.settings.pminInForce ≤ maxPmin
  guard : s.settings.guard ≤ maxGuard
  limitD : 6 ≤ s.settings.limitD ∧ s.settings.limitD ≤ 60
  limitS : 6 ≤ s.settings.limitS ∧ s.settings.limitS ≤ 60

/-! ### Passes (chapters 4 and 5) -/

/-- What a pass in flight and the held order rely on: a bay in session in the snapshot and not marked is still in session
(R56); no increase is pending during a pass (R79); the held order names a bay at most once (R67), and names every bay
that has a pending increase (R67, R85). -/
structure State.PassOk (s : State) : Prop where
  session : ∀ sn, s.alloc.snap = some sn → ∀ b, (sn.at b).bay.inSession = true → s.marked b = false →
    (s.bay b).inSession = true
  fresh : s.alloc.snap.isSome = true → ∀ b, s.pendingInc b = none
  once : s.alloc.order.Nodup
  listed : ∀ b, (s.pendingInc b).isSome = true → b ∈ s.alloc.order

/-! ### Modes and rounds (chapters 5 and 10) -/

/-- What the mode allows (R77, R78, R83, R85, R96, R120, R156, R158): in CONFIGURE no timer runs, no pass is in flight and no
order is held; pending increases stand in RUN alone; a pending mode, a held request and session-change marks stand only
while a pass is in flight; in RUN and HOLD the Pmin last set is the one that governs (R149). -/
structure State.ModeOk (s : State) : Prop where
  configure : s.mode = .configure →
    s.alloc.timer = none ∧ s.alloc.snap = none ∧ s.pub.slotTimes = [] ∧ s.alloc.order = [] ∧
      ∀ c, (s.cabinet c).silence = none
  increase : s.mode ≠ .run → ∀ b, s.pendingInc b = none
  idle : s.alloc.snap = none → s.pendingMode = none ∧ s.alloc.early = false ∧ ∀ b, s.marked b = false
  running : s.resetLow = false → s.mode ≠ .configure → s.alloc.timer = some s.settings.roundLength
  governs : s.mode ≠ .configure → s.settings.pminInForce = s.settings.pmin

/-! ### Notices (chapter 11) -/

/-- The condition indicators of a notice set that is as R164 and R166 leave it: pending flags and enables name flags of the
set, and a held flag is pending while its condition stands. -/
structure NoticeSet.Ok (n : NoticeSet) (bits : Mask) : Prop where
  pending : n.pending &&& ~~~bits = 0
  enable : n.enable &&& ~~~bits = 0
  held : n.cond &&& ~~~n.pending = 0

/-- Condition indicators of the D-set as the blocks' conditions stand (R33, R73). -/
def State.condsD (s : State) : Mask :=
  (if s.overdueStands then DFlag.overdue.bit else 0) ||| (if s.atRiskStands then DFlag.atRisk.bit else 0)

/-- Condition indicators of the S-set as the blocks' conditions stand (R48, R49, R80, R124). -/
def State.condsS (s : State) : Mask :=
  (if s.exceededStands then SFlag.envelopeExceeded.bit else 0) ||| (if s.env.shed then SFlag.shedActive.bit else 0) |||
  (if s.linkTroubleStands then SFlag.linkTrouble.bit else 0) |||
  (if s.staleCabinetStands then SFlag.staleCabinet.bit else 0) ||| (if s.env.stale then SFlag.loadStale.bit else 0) |||
  (if s.unconfirmedStands then SFlag.unconfirmedSetpoint.bit else 0)

/-- Every condition indicator says whether its condition stands, and the flags of both sets are as R164 and R166 leave
them. -/
structure State.NoticesOk (s : State) : Prop where
  dset : s.dset.Ok dsetBits
  sset : s.sset.Ok ssetBits
  condD : s.dset.cond = s.condsD
  condS : s.sset.cond = s.condsS

/-! ### Terms of the claims: what a command leaves alone -/

/-- The parts of the state that a claim names when it says what a command may touch. -/
inductive Block where
  | queue | reset | straps | mode | pendingMode | bays | roster | index | rebuild | clock | env
  | timer | pass | marks | order | early | increases | board | budget | slotTimes
  | settings | ports | cabinets | dset | sset | pins
deriving DecidableEq, Repr

/-- The part is in `t` as it is in `s`. -/
def Block.same : Block → State → State → Prop
  | .queue, s, t => t.pending = s.pending
  | .reset, s, t => t.resetLow = s.resetLow
  | .straps, s, t => t.straps = s.straps
  | .mode, s, t => t.mode = s.mode
  | .pendingMode, s, t => t.pendingMode = s.pendingMode
  | .bays, s, t => t.bays = s.bays
  | .roster, s, t => t.roster = s.roster
  | .index, s, t => t.index = s.index
  | .rebuild, s, t => t.rebuild = s.rebuild
  | .clock, s, t => t.clock = s.clock
  | .env, s, t => t.env = s.env
  | .timer, s, t => t.alloc.timer = s.alloc.timer
  | .pass, s, t => t.alloc.snap = s.alloc.snap
  | .marks, s, t => t.alloc.marks = s.alloc.marks
  | .order, s, t => t.alloc.order = s.alloc.order
  | .early, s, t => t.alloc.early = s.alloc.early
  | .increases, s, t => t.pub.pending = s.pub.pending
  | .board, s, t => t.pub.board = s.pub.board
  | .budget, s, t => t.pub.used = s.pub.used
  | .slotTimes, s, t => t.pub.slotTimes = s.pub.slotTimes
  | .settings, s, t => t.settings = s.settings
  | .ports, s, t => t.ports = s.ports
  | .cabinets, s, t => t.cabinets = s.cabinets
  | .dset, s, t => t.dset = s.dset
  | .sset, s, t => t.sset = s.sset
  | .pins, s, t => t.pins = s.pins

/-- Every part but those listed is in `t` as it is in `s`. -/
def SameBut (l : List Block) (s t : State) : Prop := ∀ k, k ∉ l → k.same s t

/-- A notice set `n'` differs from `n` in the pending bits and condition indicators of the given bits at most. -/
def NoticeSet.SameBut (bits : Mask) (n n' : NoticeSet) : Prop :=
  n'.enable = n.enable ∧ n'.pending &&& ~~~bits = n.pending &&& ~~~bits ∧ n'.cond &&& ~~~bits = n.cond &&& ~~~bits

/-! ### Terms of the claims: the handler and the transmitter -/

/-- Port `p`'s handler can take item `x` now (R105): RESET is high, the handler READY, the port not DETACHED, and `x` the
oldest item in its buffers. -/
abbrev State.Offers (s : State) (p : Port) (x : Item) : Prop :=
  s.resetLow = false ∧ s.handler p = .ready ∧ (s.port p).buffers.head? = some x ∧ (s.port p).health ≠ .detached

/-- Port `p`'s handler can take message `m`, of kind `k`, now. -/
abbrev State.Takes (s : State) (p : Port) (k : Kind) (m : Msg) : Prop := s.Offers p (.message m) ∧ m.kind = k.code

/-- The kind of message a handler command takes, and the port it takes it on. -/
def handled : Instr → Option (Port × Kind)
  | .keepalive p => some (p, .keepalive)
  | .outlets p => some (p, .outlets)
  | .plug p => some (p, .plug)
  | .unplug p => some (p, .unplug)
  | .meter p => some (p, .meter)
  | .roundEnd p => some (p, .roundEnd)
  | .applied p => some (p, .applied)
  | .outletFault p => some (p, .outletFault)
  | .rosterPut p => some (p, .rosterPut)
  | .rosterDrop p => some (p, .rosterDrop)
  | .clockSet p => some (p, .clockSet)
  | .vanPolicy p => some (p, .vanPolicy)
  | .tagWindow p => some (p, .tagWindow)
  | .read p _ => some (p, .read)
  | .replyLimit p => some (p, .replyLimit)
  | .noticeEnable p => some (p, .noticeEnable)
  | .noticeClear p => some (p, .noticeClear)
  | .siteLimit p => some (p, .siteLimit)
  | .loadReport p => some (p, .loadReport)
  | .rampLimit p => some (p, .rampLimit)
  | .modeRequest p => some (p, .modeRequest)
  | .restart p => some (p, .restart)
  | .releaseCabinet p => some (p, .releaseCabinet)
  | .allocationSetup p => some (p, .allocationSetup)
  | .slotAssign p => some (p, .slotAssign)
  | .pinSetup p _ => some (p, .pinSetup)
  | .pinWrite p => some (p, .pinWrite)
  | _ => none

/-- A port with one more reply at the tail of its answer queue; an IDLE transmitter enters GAP (R109, R110). -/
def LinkPort.queued (r : LinkPort) (m : Msg) : LinkPort :=
  { r with queue := r.queue ++ [m], tx := if r.tx = .idle then .gap else r.tx }

/-- `u` with reply `m` queued on port `p`, and nothing else changed. -/
def State.sends (u : State) (p : Port) (m : Msg) : State := u.setPort p ((u.port p).queued m)

/-- `r'` is `r`, but that an IDLE transmitter may have entered GAP. -/
def LinkPort.Kicked (r r' : LinkPort) : Prop := r' = r ∨ (r.tx = .idle ∧ r' = { r with tx := .gap })

/-! ### Terms of the claims: what the rules bring about -/

/-- The value a vehicle-limit publication issues for a Plim (R93). -/
def cutTo (pmin plim : Nat) : Nat := if pmin ≤ plim then plim else 0

/-- The session of bay `b`, `x`, ends (R23), and nothing else comes about. -/
structure SessionEnds (s t : State) (b : Fin 32) (x : Session) : Prop where
  bay : t.bay b = { s.bay b with occ := .vacant, published := 0, seq := 0, confirmed := 0, unconfirmed := 0 }
  bays : ∀ c, c ≠ b → t.bay c = s.bay c
  board : t.board b = none ∧ ∀ c, c ≠ b → t.board c = s.board c
  increase : t.pendingInc b = none ∧ ∀ c, c ≠ b → t.pendingInc c = s.pendingInc c
  linked : ∀ k e, x.disp = .rostered k → s.entry k = some e →
    t.entry k = some { e with state := if s.clock.minute < e.departure then .waiting else .departed
                              lastEnergy := some x.delivered }
  entries : ∀ k, x.disp ≠ .rostered k → t.entry k = s.entry k
  marks : ∀ c, t.marked c = (s.marked c || (s.alloc.snap.isSome && c == b))
  dset : NoticeSet.SameBut 0x0003 s.dset t.dset
  sset : NoticeSet.SameBut 0x0021 s.sset t.sset
  frame : SameBut [.bays, .roster, .board, .increases, .marks, .dset, .sset] s t

/-- An entry after a departure evaluation against a shift minute (R32). -/
def departed (minute : Nat) (e : Entry) : Entry :=
  if minute < e.departure then e
  else match e.state with
    | .waiting => { e with state := .departed }
    | .plugged b _ => { e with state := .plugged b true }
    | .departed => e

/-- State of a bay in session after the check of R21 at a round start. -/
def State.roundPhase (s : State) (x : Session) : Phase :=
  match s.targetOf x.disp with
  | none => x.phase
  | some target =>
    if x.phase = .active ∧ target ≤ x.delivered then .satisfied
    else if x.phase = .satisfied ∧ x.delivered < target then .active
    else x.phase

/-- The roster entry a bay in session is linked to (R55). -/
def State.linkedEntry (s : State) (x : Session) : Option Entry :=
  match x.disp with
  | .rostered k => s.entry k
  | _ => none

/-- A round start (R79), and nothing else comes about: what its seven parts leave. -/
structure RoundStarts (s t : State) : Prop where
  increases : ∀ b, t.pendingInc b = none
  cabinets : ∀ c, t.cabinet c =
    if s.present (.c c) then
      { s.cabinet c with
        staleRounds := if (s.cabinet c).roundEnd then 0 else min 255 ((s.cabinet c).staleRounds + 1)
        roundEnd := false }
    else s.cabinet c
  bays : ∀ b, t.bay b =
    { s.bay b with
      unconfirmed := if (s.bay b).published = (s.bay b).confirmed then 0 else min 255 ((s.bay b).unconfirmed + 1)
      occ := match (s.bay b).occ with
        | .session x => .session { x with phase := s.roundPhase x }
        | o => o }
  env : t.env = { s.env with rounds := min 3 (s.env.rounds + 1), stale := s.env.stale || 2 ≤ s.env.rounds }
  snapshot : ∃ sn, t.alloc.snap = some sn ∧ sn.now = s.clock.minute ∧ sn.guard = s.settings.guard ∧
    sn.pmin = s.settings.pminInForce ∧ sn.env = t.env.inForce ∧
    ∀ b, (sn.at b).bay = t.bay b ∧ (sn.at b).health = (s.port (.c (cabinetOf b))).health ∧
      ((sn.at b).fresh = true ↔ s.present (.c (cabinetOf b)) = false ∨ (s.cabinet (cabinetOf b)).roundEnd = true) ∧
      (sn.at b).entry = ((s.bay b).session).bind s.linkedEntry
  slotTimes : t.pub.slotTimes =
    [(1, s.settings.roundLength / 4), (2, 2 * s.settings.roundLength / 4), (3, 3 * s.settings.roundLength / 4)]
  timer : t.alloc.timer = some s.settings.roundLength
  satisfied : (∃ b x, (s.bay b).session = some x ∧ x.phase = .active ∧ s.roundPhase x = .satisfied) →
    t.dset.pending &&& DFlag.satisfied.bit ≠ 0
  dset : NoticeSet.SameBut 0x0010 s.dset t.dset
  sset : NoticeSet.SameBut 0x0039 s.sset t.sset
  frame : SameBut [.increases, .cabinets, .bays, .env, .pass, .slotTimes, .timer, .dset, .sset] s t

/-- The pending increase of bay `b`, of the given target, is evaluated at its slot (R86, R87), and nothing else comes about: it
is published when the checks pass and the least of target − published, room and budget is positive and brings the bay to
Pmin; it is discarded either way. -/
def IncreaseTaken (s t : State) (b : Fin 32) (target : Nat) : Prop :=
  let x := s.bay b
  let port := s.port (.c (cabinetOf b))
  let fit := s.mode = .run ∧ x.reachable = true ∧ port.health ≠ .detached ∧ x.resync = false ∧
    ∃ y, x.session = some y ∧ y.phase = .active
  let goal := if port.health = .degraded then min (min target x.plim) x.allowance else min target x.plim
  let room : Int := (s.env.inForce : Int) - s.total
  let rise : Int := min ((goal : Int) - x.published) room
  let inc : Int := if s.env.ramp = 0 then rise else min rise ((s.env.ramp : Int) - s.pub.used)
  let up := x.published + inc.toNat
  t.pendingInc b = none ∧
    (∀ a, a ≠ b → t.bay a = s.bay a ∧ t.board a = s.board a ∧ t.pendingInc a = s.pendingInc a) ∧
    (fit → 0 < inc → s.settings.pminInForce ≤ up →
      t.bay b = { x with published := up, seq := x.seq + 1 } ∧ t.board b = some (up, x.seq + 1) ∧
      t.pub.used = s.pub.used + inc.toNat ∧ t.total ≤ s.env.inForce) ∧
    (¬ (fit ∧ 0 < inc ∧ s.settings.pminInForce ≤ up) → t.bay b = x ∧ t.board b = s.board b ∧ t.pub.used = s.pub.used) ∧
    (∀ p, LinkPort.Kicked (s.port p) (t.port p)) ∧ NoticeSet.SameBut 0x0001 s.sset t.sset ∧
    SameBut [.bays, .board, .increases, .budget, .ports, .sset] s t

/-- Slot `k` is taken along a service order (R86): the pending increases of its bays are evaluated one after another, each on
the room and the budget that those before it left; every other bay is passed over. -/
inductive SlotTaken (k : Fin 4) : List (Fin 32) → State → State → Prop where
  | done (s : State) : SlotTaken k [] s s
  | skip {b : Fin 32} {l : List (Fin 32)} {s t : State} : s.pendingInc b = none ∨ (s.bay b).slot ≠ k →
      SlotTaken k l s t → SlotTaken k (b :: l) s t
  | take {b : Fin 32} {l : List (Fin 32)} {s u t : State} (target : Nat) : s.pendingInc b = some target →
      (s.bay b).slot = k → IncreaseTaken s u b target → SlotTaken k l u t → SlotTaken k (b :: l) s t

/-- An early-round request is raised (R78): none in CONFIGURE, held during a pass, a round start otherwise. -/
def EarlyRound (s t : State) : Prop :=
  if s.mode = .configure then t = s
  else if s.alloc.snap.isSome then t = { s with alloc := { s.alloc with early := true } }
  else RoundStarts s t

/-- Command `c` hands Link Health a rejection of port `p` (R100 to R103), and leaves the receiver as `rx`. The first character
after a completed message is the one error, also with its stop bit low. DEDUCED (log 6). -/
inductive Rejection (s : State) (p : Port) : Instr → Receiver → Prop where
  | header (bytes : List Byte) : (s.port p).rx = .receiving bytes → headerBad bytes = true →
      Rejection s p (.headerFault p) (.hunt false)
  | framing (bytes : List Byte) (cause : FramingCause) : (s.port p).rx = .receiving bytes → headerBad bytes = false →
      fullLength bytes = false → cause = .gap ∨ cause = .lowStop → Rejection s p (.framingError p cause) (.hunt false)
  | opening : (s.port p).rx = .ready → Rejection s p (.framingError p .lowStop) (.hunt false)
  | after (cause : FramingCause) : (s.port p).rx = .hunt true → cause = .afterComplete ∨ cause = .lowStop →
      Rejection s p (.framingError p cause) (.hunt false)
  | character (b : Byte) : (s.port p).rx = .hunt true → Rejection s p (.characterReceived p b) (.hunt false)
  | payload (k u l h c1 c0 : Byte) (payload : List Byte) :
      (s.port p).rx = .receiving ([k, u, l, h] ++ payload ++ [c1, c0]) → crc8 [k, u, l] = h →
      payload.length = l.toNat → 1 ≤ l.toNat → l.toNat ≤ 60 → [c1, c0] ≠ byte2 (crc16 payload).toNat →
      Rejection s p (.messageComplete p) (.hunt true)

/-- Port `p` becomes DETACHED (R118, R119), its receiver being left as `rx`, and nothing else comes about. -/
structure Detaches (s t : State) (p : Port) (rx : Receiver) : Prop where
  port : t.port p = { rx := rx, buffers := [], queue := [], tx := .idle, errors := 255, health := .detached, rejoin := 0 }
  ports : ∀ q, q ≠ p → t.port q = s.port q
  bays : ∀ b, t.bay b = if p = .c (cabinetOf b) then { s.bay b with reachable := false } else s.bay b
  board : ∀ b, t.board b = if p = .c (cabinetOf b) then none else s.board b
  increases : ∀ b, t.pendingInc b = if p = .c (cabinetOf b) then none else s.pendingInc b
  cabinets : ∀ c, t.cabinet c = if p = .c c then { s.cabinet c with silence := none, roundEnd := false } else s.cabinet c
  trouble : t.sset = s.sset.setCond SFlag.linkTrouble.bit true
  frame : SameBut [.ports, .bays, .board, .increases, .cabinets, .sset] s t

/-- Port `p` rejoins (R122), its receiver being left as `rx`, and nothing else comes about. -/
structure Rejoins (s t : State) (p : Port) (rx : Receiver) : Prop where
  port : t.port p = { s.port p with rx := rx, errors := 0, health := .sound, rejoin := 0 }
  ports : ∀ q, q ≠ p → t.port q = s.port q
  bays : ∀ b, t.bay b = if p = .c (cabinetOf b) then { s.bay b with reachable := true, resync := true } else s.bay b
  cabinets : ∀ c, t.cabinet c =
    if p = .c c ∧ s.mode ≠ .configure then { s.cabinet c with silence := some (2 * s.settings.roundLength) }
    else s.cabinet c
  trouble : t.sset = s.sset.setCond SFlag.linkTrouble.bit t.linkTroubleStands
  frame : SameBut [.ports, .bays, .cabinets, .sset] s t

/-- Entry to CONFIGURE from RUN or HOLD (R158, R126, R95), and nothing else comes about. -/
structure EntersConfigure (s t : State) : Prop where
  mode : t.mode = .configure ∧ t.pendingMode = none
  round : t.alloc.timer = none ∧ t.alloc.early = false ∧ t.alloc.order = [] ∧ t.pub.slotTimes = [] ∧
    ∀ b, t.pendingInc b = none
  ports : ∀ p, LinkPort.Kicked { s.port p with errors := 0, health := .sound, rejoin := 0 } (t.port p)
  cabinets : ∀ c, t.cabinet c = { s.cabinet c with silence := none }
  zero : ∀ b, let back := (s.port (.c (cabinetOf b))).health = .detached
    ((s.bay b).reachable = true ∨ back) → 0 < (s.bay b).published →
    (t.bay b).published = 0 ∧ (t.bay b).seq = (s.bay b).seq + 1 ∧ t.board b = some (0, (s.bay b).seq + 1)
  kept : ∀ b, ¬ (((s.bay b).reachable = true ∨ (s.port (.c (cabinetOf b))).health = .detached) ∧ 0 < (s.bay b).published) →
    (t.bay b).published = (s.bay b).published ∧ (t.bay b).seq = (s.bay b).seq ∧ t.board b = s.board b
  bays : ∀ b, t.bay b =
    { s.bay b with
      published := (t.bay b).published, seq := (t.bay b).seq
      reachable := if (s.port (.c (cabinetOf b))).health = .detached then true else (s.bay b).reachable
      resync := if (s.port (.c (cabinetOf b))).health = .detached then true else (s.bay b).resync }
  sset : NoticeSet.SameBut 0x0005 s.sset t.sset
  frame : SameBut [.mode, .pendingMode, .timer, .early, .order, .slotTimes, .increases, .ports, .cabinets, .bays, .board,
    .sset] s t

/-- The silence timers of the cabinet ports strapped present and not DETACHED start (R120), and nothing else comes about. -/
structure SilenceStarts (s t : State) : Prop where
  cabinets : ∀ c, t.cabinet c =
    if s.present (.c c) = true ∧ (s.port (.c c)).health ≠ .detached then
      { s.cabinet c with silence := some (2 * s.settings.roundLength) }
    else s.cabinet c
  frame : SameBut [.cabinets] s t

/-- Mode `m` takes effect (R157): the mode in force brings nothing; CONFIGURE brings R158; RUN or HOLD entered from CONFIGURE
brings R159, and the Pmin last set then governs (R149); a change between RUN and HOLD brings R160. The pending mode then
reads none. -/
def ModeTakesEffect (s t : State) (m : Mode) : Prop :=
  if m = s.mode then t = { s with pendingMode := none }
  else if m = .configure then EntersConfigure s t
  else if s.mode = .configure then ∃ u, SilenceStarts s u ∧
    RoundStarts { u with mode := m, pendingMode := none, settings := { s.settings with pminInForce := s.settings.pmin } } t
  else ∃ u, SilenceStarts s u ∧
    t = { (if m = .hold then u.dropIncreases else u) with mode := m, pendingMode := none }

end Sys2Proof.Machine
end

