-- ==== Sys2Proof/Certificates/Slice0/Obligations.lean ====
section
/-!
DEFINITION. The statements for the provers. A handler command is stated for the moment its handler takes the message
(`State.Takes`); where no such item is offered it changes nothing (`HandlerWaits`). A port that is DETACHED has empty
buffers (`KeepsLinks`), so `State.Takes` shuts out no run. `u.sends p a` is `u` with answer `a` queued on port `p`.
-/
open Sys2Proof Sys2Proof.Machine

/-! ### The machine -/

/-- A step runs the command at the front of the queue on the state with the queue's rest. -/
def Obligations.StepRunsTheFrontCommand : Prop :=
  ∀ (s : State) (c : Instr) (rest : List Instr), s.pending = c :: rest → step s = exec c { s with pending := rest }

/-- On an empty queue one period of the clock input passes: the second fraction alone counts it, on the internal time
base and while RESET is high. The model's choice (log 5), on R27, R28, R29 and R163. -/
def Obligations.EmptyQueueCountsOnePeriod : Prop :=
  ∀ s : State, s.pending = [] → ∃ t, step s = .next t ∧ SameBut [.clock] s t ∧
    t.clock.minute = s.clock.minute ∧ t.clock.second = s.clock.second ∧ t.clock.overtaken = s.clock.overtaken ∧
    t.clock.fraction =
      if s.resetLow = true ∨ s.dedicated 1 = true then s.clock.fraction else min 7999999 (s.clock.fraction + 1)

/-- No command changes the queue of the commands that wait. -/
def Obligations.CommandsKeepTheQueue : Prop :=
  ∀ (c : Instr) (s t : State), exec c s = .next t → t.pending = s.pending

/-- While RESET is low no command but its release changes the state. The model's choice (logs 3 and 12): R163 says that the
receivers, transmitters, alert lines, pins, timers and work in flight rest; that no other command has an effect then is
the model's. -/
def Obligations.ResetLowStopsTheRest : Prop :=
  ∀ (c : Instr) (s : State), s.resetLow = true → (∀ cabs baud pins, c ≠ .resetRelease cabs baud pins) →
    exec c s = .next s

/-- RESET_RELEASE (R163): the straps are sampled and every block takes its power-on values (R25, R36, R52, R53, R98,
R111, R114, R115, R143, R156, R169, R170); LOAD STALE alone is pending. -/
def Obligations.ResetReleaseTakesPowerOnValues : Prop :=
  ∀ (s : State) (cabs baud : BitVec 2) (pins : Byte), s.resetLow = true →
    ∃ t, exec (.resetRelease cabs baud pins) s = .next t ∧ t.pending = s.pending ∧ t.resetLow = false ∧
      t.straps.cabs = cabs ∧ t.straps.baud = baud ∧ t.mode = .configure ∧ t.pendingMode = none ∧
      (∀ b, (t.bay b).occ = .unfitted ∧ (t.bay b).pcap = 0 ∧ (t.bay b).published = 0 ∧ (t.bay b).seq = 0 ∧
        (t.bay b).confirmed = 0 ∧ (t.bay b).unconfirmed = 0 ∧ (t.bay b).slot.val = b.val % 4 ∧
        (t.bay b).reachable = true ∧ (t.bay b).resync = false) ∧
      (∀ k, t.entry k = none) ∧ (∀ i, t.indexAt i = none) ∧ t.index.window = 0 ∧ t.rebuild = none ∧
      t.clock = { minute := 0, second := 0, fraction := 0, overtaken := false } ∧
      t.env = { pSite := 0, other := 0, stale := true, rounds := 3, shed := false, ramp := 0 } ∧
      t.alloc.timer = none ∧ t.alloc.snap = none ∧ (∀ b, t.marked b = false) ∧ t.alloc.order = [] ∧
      t.alloc.early = false ∧ (∀ b, t.pendingInc b = none ∧ t.board b = none) ∧ t.pub.used = 0 ∧ t.pub.slotTimes = [] ∧
      t.settings = { roundLength := 32, pmin := 40, pminInForce := 40, guard := 15, courtesy := false, limitD := 24, limitS := 24 } ∧
      (∀ p, t.port p = { rx := .hunt false, buffers := [], queue := [], tx := .idle, errors := 0, health := .sound,
                         rejoin := 0 }) ∧
      (∀ c, t.cabinet c = { silence := none, roundEnd := false, staleRounds := 0 }) ∧
      t.dset = { pending := 0, enable := 0, cond := 0 } ∧ t.sset = { pending := 0x0010, enable := 0, cond := 0x0010 } ∧
      t.pins = { fn := 0, dir := 0, latch := 0, gp0 := pins.getLsbD 0, gp1 := pins.getLsbD 1 }

/-- RESET_ASSERTED (R163): everything in flight is lost, every timer stops, the alert lines are released and every general
pin is an input. What is not in flight takes its power-on value at the release only: the model's reading (log 12). -/
def Obligations.ResetAssertedLosesWhatIsInFlight : Prop :=
  ∀ s : State, s.resetLow = false →
    ∃ t, exec .resetAsserted s = .next t ∧ t.resetLow = true ∧ t.pendingMode = none ∧ t.rebuild = none ∧
      t.alloc.timer = none ∧ t.alloc.snap = none ∧ (∀ b, t.marked b = false) ∧ t.alloc.early = false ∧
      (∀ b, t.pendingInc b = none) ∧ t.pub.slotTimes = [] ∧
      (∀ p, t.port p = { s.port p with rx := .hunt false, tx := .idle }) ∧
      (∀ c, t.cabinet c = { s.cabinet c with silence := none }) ∧
      t.alertD = false ∧ t.alertS = false ∧ (∀ n, t.pinDrive n = none) ∧
      SameBut [.reset, .pendingMode, .rebuild, .timer, .pass, .marks, .early, .increases, .slotTimes, .ports, .cabinets] s t

/-! ### Characters and messages on a line (chapters 6 and 7) -/

/-- IDLE_GAP_ELAPSED and CHARACTER_RECEIVED (R100): after 3 character times of idle line HUNT becomes READY; in READY a
character opens a message; in RECEIVING it is appended; in HUNT, past the first character after a completed message, it is
not kept and not counted. Where a bad header or a whole message still stands in the receiver, the next line event of that
port first brings about the header fault or the completion that is due (log 6, deduced). A line event whose condition the
receiver does not meet changes nothing (the model's choice, log 3). The receiver of a cabinet port not strapped present
ignores its line (R99, R175): no line event of that port changes anything. -/
def Obligations.CharactersOpenAndFillAMessage : Prop :=
  (∀ (s : State) (p : Port), s.listens p = true →
    (∀ f, (s.port p).rx = .hunt f →
      exec (.idleGapElapsed p) s = .next (s.setPort p { s.port p with rx := .ready })) ∧
    (∀ b, (s.port p).rx = .ready →
      exec (.characterReceived p b) s = .next (s.setPort p { s.port p with rx := .receiving [b] })) ∧
    (∀ b bytes, (s.port p).rx = .receiving bytes → headerBad bytes = false → fullLength bytes = false →
      exec (.characterReceived p b) s = .next (s.setPort p { s.port p with rx := .receiving (bytes ++ [b]) })) ∧
    (∀ b, (s.port p).rx = .hunt false → exec (.characterReceived p b) s = .next s)) ∧
  (∀ (s : State) (p : Port) (bytes : List Byte) (c : Instr), s.listens p = true → (s.port p).rx = .receiving bytes →
    (∃ b, c = .characterReceived p b) ∨ c = .idleGapElapsed p ∨ (∃ cause, c = .framingError p cause) →
    (headerBad bytes = true →
      ∃ t, exec (.headerFault p) s = .next t ∧ (t.port p).rx = .hunt false ∧ exec c s = exec c t) ∧
    (headerBad bytes = false → fullLength bytes = true →
      ∃ t, exec (.messageComplete p) s = .next t ∧ (t.port p).rx = .hunt true ∧ exec c s = exec c t)) ∧
  (∀ (s : State) (p : Port), s.listens p = true →
    let rx := (s.port p).rx
    let midway : Prop := ∃ bytes, rx = .receiving bytes ∧ headerBad bytes = false ∧ fullLength bytes = false
    (rx = .ready ∨ midway → exec (.idleGapElapsed p) s = .next s) ∧
    (∀ cause, rx = .hunt false ∨ (rx = .hunt true ∧ cause = .gap) ∨ (rx = .ready ∧ cause ≠ .lowStop) ∨
      (midway ∧ cause = .afterComplete) → exec (.framingError p cause) s = .next s) ∧
    ((∀ bytes, rx = .receiving bytes → headerBad bytes = false) → exec (.headerFault p) s = .next s) ∧
    ((∀ bytes, rx = .receiving bytes → headerBad bytes = true ∨ fullLength bytes = false) →
      exec (.messageComplete p) s = .next s)) ∧
  (∀ (s : State) (n : Fin 4) (c : Instr), s.straps.cabs.toNat < n.val →
    (∃ b, c = .characterReceived (.c n) b) ∨ c = .idleGapElapsed (.c n) ∨ (∃ cause, c = .framingError (.c n) cause) ∨
      c = .headerFault (.c n) ∨ c = .messageComplete (.c n) →
    exec c s = .next s)

/-- The characters of a message as the part sends it (R101, R102) are the message a receiver delimits: complete at its last
character and not before, with a good header and a good payload check, and read back as the same message. -/
def Obligations.LineRoundTrip : Prop :=
  ∀ m : Msg, m.payload.length ≤ 60 →
    headerBad m.line = false ∧ fullLength m.line = true ∧ parseMessage m.line = some (m, true) ∧
    ∀ n, n < m.line.length → headerBad (m.line.take n) = false ∧ fullLength (m.line.take n) = false

/-- HEADER_FAULT and FRAMING_ERROR on a port that is not DETACHED and does not detach by it (R100, R101, R116): a rejection
adds 8 to the error count, the health state follows the count, the receiver enters HUNT and LINK TROUBLE is
evaluated. A first character in HUNT after a completed message is the same error, counted once (log 6, deduced). -/
def Obligations.RejectionCountsEight : Prop :=
  ∀ (s : State) (p : Port), s.listens p = true → (s.port p).health ≠ .detached → (s.port p).errors + 8 < 255 →
    let hit : State → Prop := fun t =>
      (t.port p = { s.port p with rx := .hunt false, errors := (s.port p).errors + 8
                                  health := healthOf ((s.port p).errors + 8) }) ∧
      (∀ q, q ≠ p → t.port q = s.port q) ∧
      t.sset = s.sset.setCond SFlag.linkTrouble.bit t.linkTroubleStands ∧ SameBut [.ports, .sset] s t
    (∀ k u l h, (s.port p).rx = .receiving [k, u, l, h] → (crc8 [k, u, l] ≠ h ∨ 60 < l.toNat) →
      ∃ t, exec (.headerFault p) s = .next t ∧ hit t) ∧
    (∀ bytes cause, (s.port p).rx = .receiving bytes → headerBad bytes = false → fullLength bytes = false →
      (cause = .gap ∨ cause = .lowStop) → ∃ t, exec (.framingError p cause) s = .next t ∧ hit t) ∧
    ((s.port p).rx = .ready → ∃ t, exec (.framingError p .lowStop) s = .next t ∧ hit t) ∧
    (∀ cause, (s.port p).rx = .hunt true → (cause = .afterComplete ∨ cause = .lowStop) →
      ∃ t, exec (.framingError p cause) s = .next t ∧ hit t) ∧
    ((s.port p).rx = .hunt true → ∀ b, ∃ t, exec (.characterReceived p b) s = .next t ∧ hit t)

/-- MESSAGE_COMPLETE of a good message on a port that is not DETACHED (R103, R104, R116, R120): the count falls by 1, the
health state follows, the message joins a free buffer or is dropped with INBOUND OVERRUN, and a cabinet port's silence
timer restarts in RUN or HOLD. That the acceptance counts also where the message is dropped is deduced (log 10). -/
def Obligations.GoodMessageIsAccepted : Prop :=
  ∀ (s : State) (p : Port) (m : Msg), s.listens p = true → (s.port p).health ≠ .detached → (s.port p).errors ≤ 255 →
    m.payload.length ≤ 60 → (s.port p).rx = .receiving m.line →
    ∃ t, exec (.messageComplete p) s = .next t ∧
      (t.port p = { s.port p with
        rx := .hunt true
        errors := (s.port p).errors - 1
        health := healthOf ((s.port p).errors - 1)
        buffers := if (s.port p).buffers.length < 2 then (s.port p).buffers ++ [.message m] else (s.port p).buffers }) ∧
      (∀ q, q ≠ p → t.port q = s.port q) ∧
      (∀ c, t.cabinet c =
        if p = .c c ∧ s.mode ≠ .configure then { s.cabinet c with silence := some (2 * s.settings.roundLength) }
        else s.cabinet c) ∧
      (t.dset = if p = .d ∧ 2 ≤ (s.port p).buffers.length then s.dset.raise DFlag.inboundOverrun.bit else s.dset) ∧
      (t.sset =
        let n := s.sset.setCond SFlag.linkTrouble.bit t.linkTroubleStands
        if p ≠ .d ∧ 2 ≤ (s.port p).buffers.length then n.raise SFlag.inboundOverrun.bit else n) ∧
      SameBut [.ports, .cabinets, .dset, .sset] s t

/-- MESSAGE_COMPLETE of a message whose payload check does not match, on a port that is not DETACHED and does not detach by
it (R102, R103, R104): a rejection, and for a request kind a payload-failure entry. -/
def Obligations.PayloadFailureIsRejected : Prop :=
  ∀ (s : State) (p : Port) (k u l h c1 c0 : Byte) (payload : List Byte), s.listens p = true →
    (s.port p).health ≠ .detached → (s.port p).errors + 8 < 255 →
    (s.port p).rx = .receiving ([k, u, l, h] ++ payload ++ [c1, c0]) → crc8 [k, u, l] = h →
    payload.length = l.toNat → 1 ≤ l.toNat → l.toNat ≤ 60 → [c1, c0] ≠ byte2 (crc16 payload).toNat →
    let entry := (Kind.ofCode k).any Kind.isRequest
    ∃ t, exec (.messageComplete p) s = .next t ∧
      (t.port p = { s.port p with
        rx := .hunt true
        errors := (s.port p).errors + 8
        health := healthOf ((s.port p).errors + 8)
        buffers := if entry = true ∧ (s.port p).buffers.length < 2 then (s.port p).buffers ++ [.failed k u]
          else (s.port p).buffers }) ∧
      (∀ q, q ≠ p → t.port q = s.port q) ∧
      (t.dset = if entry = true ∧ p = .d ∧ 2 ≤ (s.port p).buffers.length then s.dset.raise DFlag.inboundOverrun.bit
        else s.dset) ∧
      (t.sset =
        let n := s.sset.setCond SFlag.linkTrouble.bit t.linkTroubleStands
        if entry = true ∧ p ≠ .d ∧ 2 ≤ (s.port p).buffers.length then n.raise SFlag.inboundOverrun.bit else n) ∧
      SameBut [.ports, .dset, .sset] s t

/-- SILENCE_TIMER_EXPIRY, and a rejection of any cause that brings the count to 255, detach the port (R103, R116, R118, R119,
R120): a bad header, a framing error of each cause, or a payload check that does not match. That no payload-failure entry is
then formed, and no INBOUND OVERRUN raised, since Link Health takes the outcome before the item is handed on, is deduced
(log 10); and so is that a low stop bit in the first character after a completed message is that one error (log 6). -/
def Obligations.DetachTakesEffect : Prop :=
  (∀ (s : State) (c : Fin 4) (n : Nat), s.resetLow = false → (s.cabinet c).silence = some n →
    ∃ t, exec (.silenceTimerExpiry c) s = .next t ∧ Detaches s t (.c c) (s.port (.c c)).rx) ∧
  (∀ (s : State) (p : Port) (c : Instr) (rx : Receiver), s.listens p = true → (s.port p).health ≠ .detached →
    255 ≤ (s.port p).errors + 8 → Rejection s p c rx → ∃ t, exec c s = .next t ∧ Detaches s t p rx)

/-- Outcomes on a DETACHED port (R121, R122): an accepted KEEPALIVE advances the rejoin count, and the 16th brings the port
back; any other accepted message is discarded; a rejection of any cause makes the count 0, and a payload failure leaves no
entry. That the 16th KEEPALIVE is itself discarded is deduced (log 10), and so is that a low stop bit in the first character
after a completed message is one error (log 6). -/
def Obligations.DetachedPortCountsKeepalives : Prop :=
  ∀ (s : State) (p : Port), s.listens p = true → (s.port p).health = .detached →
    (∀ m : Msg, m.payload.length ≤ 60 → (s.port p).rx = .receiving m.line →
      (m.kind ≠ Kind.keepalive.code →
        exec (.messageComplete p) s = .next (s.setPort p { s.port p with rx := .hunt true })) ∧
      (m.kind = Kind.keepalive.code → (s.port p).rejoin < 15 →
        exec (.messageComplete p) s =
          .next (s.setPort p { s.port p with rx := .hunt true, rejoin := (s.port p).rejoin + 1 })) ∧
      (m.kind = Kind.keepalive.code → 15 ≤ (s.port p).rejoin →
        ∃ t, exec (.messageComplete p) s = .next t ∧ Rejoins s t p (.hunt true))) ∧
    (∀ c rx, Rejection s p c rx → exec c s = .next (s.setPort p { s.port p with rx := rx, rejoin := 0 }))

/-- END_OF_GAP (R110, R140): on a cabinet port the board entry of the lowest-numbered outlet is sent as SETPOINT and its
place becomes empty; with no entry, the head of the answer queue is sent; with neither, the transmitter is IDLE (log 18, deduced). -/
def Obligations.EndOfGapChoosesTheMessage : Prop :=
  ∀ (s : State) (p : Port), s.resetLow = false → (s.port p).tx = .gap →
    (∀ n b v q, p = .c n → cabinetOf b = n → s.board b = some (v, q) →
      (∀ a, a < b → cabinetOf a = n → s.board a = none) →
      let m : Msg := { kind := 0x90, unit := BitVec.ofNat 8 (b.val % 8), payload := byte2 v ++ [BitVec.ofNat 8 q.toNat] }
      exec (.endOfGap p) s = .next ((s.setBoard b none).setPort p { s.port p with tx := .sending m })) ∧
    ((∀ n b, p = .c n → cabinetOf b = n → s.board b = none) →
      exec (.endOfGap p) s = .next (s.setPort p (match (s.port p).queue with
        | m :: rest => { s.port p with queue := rest, tx := .sending m }
        | [] => { s.port p with tx := .idle })))

/-- MESSAGE_SENT (R110): the transmitter returns to IDLE and, with more to send, enters GAP. -/
def Obligations.MessageSentGoesOnOrRests : Prop :=
  ∀ (s : State) (p : Port) (m : Msg), s.resetLow = false → (s.port p).tx = .sending m →
    (s.port p).health ≠ .detached →
    exec (.messageSent p) s = .next (s.setPort p { s.port p with
      tx := if (s.port p).queue ≠ [] ∨ (∃ n b, p = .c n ∧ cabinetOf b = n ∧ (s.board b).isSome = true) then .gap
        else .idle })

/-! ### The handler (R105, R106) -/

/-- PAYLOAD_CHECK and UNKNOWN_KIND (R106, checks 1 to 3): the answers, laid out as R108 gives them, with no other effect. -/
def Obligations.FailedItemsAreAnswered : Prop :=
  (∀ (s : State) (p : Port) (k u : Byte), s.Offers p (.failed k u) →
    exec (.payloadCheck p) s =
      .next ((s.take p).sends p { kind := 0x80, unit := u, payload := [k, 0x00, 0x01] })) ∧
  (∀ (s : State) (p : Port) (m : Msg), s.Offers p (.message m) →
    ((∀ k, k ∈ Kind.all → k.code ≠ m.kind) → exec (.unknownKind p) s =
      .next ((s.take p).sends p { kind := 0x80, unit := m.unit, payload := [m.kind, 0x00, 0x04] })) ∧
    (m.kind = 0x80 ∨ m.kind = 0x81 ∨ m.kind = 0x90 → exec (.unknownKind p) s =
      .next ((s.take p).sends p { kind := 0x80, unit := m.unit, payload := [m.kind, 0x00, 0x02] })))

/-- Checks 3 to 5 of R106 for every handled kind: port, Length, Unit, in this order; a failing request is answered with that
check's flag alone, a failing report is dropped, and nothing else changes. -/
def Obligations.HandlerChecksComeFirst : Prop :=
  ∀ (c : Instr) (p : Port) (k : Kind) (s : State) (m : Msg), handled c = some (p, k) → s.Takes p k m →
    let failing : Flag → Prop := fun f =>
      exec c s = .next (if k.isRequest then (s.take p).sends p (m.answer f.result) else s.take p)
    (k.accepts p = false → failing .wrongPort) ∧
    (k.accepts p = true → k.lengthOk m.payload.length = false → failing .badLength) ∧
    (k.accepts p = true → k.lengthOk m.payload.length = true → k.unitOk m.unit = false → failing .badUnit)

/-- A handler that is STALLED or HELD takes nothing (R105); and a handler command whose kind is not the oldest item's
changes nothing (the model's choice, log 3). -/
def Obligations.HandlerWaits : Prop :=
  ∀ (c : Instr) (p : Port) (k : Kind) (s : State), handled c = some (p, k) →
    (s.handler p ≠ .ready → exec c s = .next s) ∧
    ((∀ m, (s.port p).buffers.head? = some (.message m) → m.kind ≠ k.code) → exec c s = .next s)

/-! ### Cabinet messages (chapter 8) -/

/-- KEEPALIVE has no effect at the handler (R106, R138); ROUND END makes the cabinet's round-end-seen flag true (R137).
APPLIED (R136, R90): for a bay in session a sequence equal to the published one makes the confirmed setpoint take the
published setpoint and the unconfirmed count 0; any other, or a bay out of session, changes nothing. -/
def Obligations.KeepaliveRoundEndAndApplied : Prop :=
  ((∀ (s : State) (p : Port) (m : Msg), s.Takes p .keepalive m → m.unit = 0xFF → m.payload = [] →
     exec (.keepalive p) s = .next (s.take p)) ∧
   (∀ (s : State) (c : Fin 4) (m : Msg), s.Takes (.c c) .roundEnd m → m.unit = 0xFF → m.payload = [] →
     exec (.roundEnd (.c c)) s = .next ((s.take (.c c)).setCabinet c { s.cabinet c with roundEnd := true }))) ∧
  (∀ (s : State) (c : Fin 4) (m : Msg) (o : Fin 8) (v1 v0 q : Byte), s.Takes (.c c) .applied m →
     m.unit = BitVec.ofNat 8 o.val → m.payload = [v1, v0, q] →
     let x := s.bay (bayAt c o)
     (¬ (x.inSession = true ∧ q.toNat = x.seq.toNat) → exec (.applied (.c c)) s = .next (s.take (.c c))) ∧
     (x.inSession = true → q.toNat = x.seq.toNat →
       ∃ t, exec (.applied (.c c)) s = .next t ∧
         t.bay (bayAt c o) = { x with confirmed := x.published, unconfirmed := 0 } ∧
         (∀ a, a ≠ bayAt c o → t.bay a = s.bay a) ∧ NoticeSet.SameBut 0x0021 s.sset t.sset ∧
         SameBut [.bays, .sset] (s.take (.c c)) t))

/-- OUTLETS (R129, R4): a list that names an outlet above 7 or one twice is refused; any other acts on the cabinet's eight
bays, with the vehicle-limit publication of R93 where a cap falls below a published setpoint; during a pass the bays that
become fitted or unfitted are marked (R56). The Pmin of that publication is the one in force, in CONFIGURE that of the last
entry to RUN or HOLD, or the power-on value before the first: the model's reading of R149 (log 24, deduced). -/
def Obligations.OutletsFitAndUnfit : Prop :=
  ∀ (s : State) (c : Fin 4) (m : Msg), s.Takes (.c c) .outlets m → m.unit = 0xFF → m.payload.length ≤ 24 →
    m.payload.length % 3 = 0 → (∀ b, cabinetOf b = c → (s.bay b).reachable = true) → s.RosterOk →
    let l := outletRecords m.payload
    (((∃ r ∈ l, 8 ≤ r.1.toNat) ∨ ¬ (l.map (·.1)).Nodup) →
      exec (.outlets (.c c)) s = .next ((s.take (.c c)).sends (.c c) (m.answer Flag.badUnit.result))) ∧
    ((∀ r ∈ l, r.1.toNat < 8) → (l.map (·.1)).Nodup →
      ∃ u, exec (.outlets (.c c)) s =
          .next (u.sends (.c c) (m.answer (if ∃ r ∈ l, 1500 < r.2 then Flag.clamped.result else 0))) ∧
        (∀ b, cabinetOf b ≠ c → u.bay b = s.bay b ∧ u.board b = s.board b) ∧
        (∀ b r, cabinetOf b = c → r ∈ l → r.1.toNat = b.val % 8 →
          let x := s.bay b
          let y := { x with pcap := min 1500 r.2 }
          if x.occ = .unfitted then u.bay b = { y with occ := .vacant } ∧ u.board b = s.board b
          else if x.inSession = true ∧ y.plim < x.published then
            u.bay b = { y with published := cutTo s.settings.pminInForce y.plim, seq := x.seq + 1 } ∧
            u.board b = some (cutTo s.settings.pminInForce y.plim, x.seq + 1)
          else u.bay b = y ∧ u.board b = s.board b) ∧
        (∀ b, cabinetOf b = c → (∀ r ∈ l, r.1.toNat ≠ b.val % 8) →
          let x := s.bay b
          match x.occ with
          | .unfitted => u.bay b = x ∧ u.board b = s.board b
          | .vacant => u.bay b = { x with occ := .unfitted, pcap := 0 } ∧ u.board b = s.board b
          | .session y =>
            u.bay b = { x with occ := .unfitted, pcap := 0, published := 0, seq := 0, confirmed := 0, unconfirmed := 0 } ∧
            u.board b = none ∧ u.pendingInc b = none ∧
            ∀ k e, y.disp = .rostered k → s.entry k = some e → u.entry k = some { e with
              state := if s.clock.minute < e.departure then .waiting else .departed, lastEnergy := some y.delivered }) ∧
        (∀ b, ¬ (cabinetOf b = c ∧ (s.bay b).inSession = true ∧ ∀ r ∈ l, r.1.toNat ≠ b.val % 8) →
          u.pendingInc b = s.pendingInc b) ∧
        (∀ b, u.marked b = true ↔ s.marked b = true ∨ (s.alloc.snap.isSome = true ∧ cabinetOf b = c ∧
          ((s.bay b).occ = .unfitted ↔ ∃ r ∈ l, r.1.toNat = b.val % 8))) ∧
        (∀ k, (∀ b, cabinetOf b = c → (∀ r ∈ l, r.1.toNat ≠ b.val % 8) → s.namedSlot b ≠ some k) →
          u.entry k = s.entry k) ∧
        (∀ p, LinkPort.Kicked ((s.take (.c c)).port p) (u.port p)) ∧
        NoticeSet.SameBut 0x0003 s.dset u.dset ∧ NoticeSet.SameBut 0x0021 s.sset u.sset ∧
        SameBut [.bays, .roster, .marks, .increases, .board, .ports, .dset, .sset] (s.take (.c c)) u)

/-- PLUG (R131, R17, R18, R19): refused at an UNFITTED bay; otherwise any session of the bay ends first, the tag is looked up,
and a session starts at 0.0 kW with the disposition the answer carries. -/
def Obligations.PlugStartsASession : Prop :=
  ∀ (s : State) (c : Fin 4) (m : Msg) (o : Fin 8) (t2 t1 t0 p1 p0 : Byte), s.Takes (.c c) .plug m →
    m.unit = BitVec.ofNat 8 o.val → m.payload = [t2, t1, t0, p1, p0] →
    let b := bayAt c o
    let tag := fieldTag t2 t1 t0
    let v := field16 p1 p0
    ((s.bay b).occ = .unfitted →
      exec (.plug (.c c)) s = .next ((s.take (.c c)).sends (.c c) (m.answer Flag.badUnit.result))) ∧
    ((s.bay b).occ ≠ .unfitted →
      ∃ s1 u d, (match (s.bay b).session with
          | some x => SessionEnds (s.take (.c c)) s1 b x
          | none => s1 = s.take (.c c)) ∧
        exec (.plug (.c c)) s = .next (u.sends (.c c)
          { kind := 0x80, unit := m.unit
            payload := [0x11, if 1500 < v then 0x10 else 0x00, 0x00, BitVec.ofNat 8 d.code] }) ∧
        (let x := s1.bay b
         u.bay b = { x with
          occ := .session { phase := match d with
                              | .rostered _ => .active
                              | .courtesy => .active
                              | .refused => .barred
                              | .duplicate => .barred
                            disp := d, tag := tag, pveh := min 1500 v, delivered := 0, power := 0, last := none }
          published := 0, seq := 0, confirmed := 0, unconfirmed := 0 }) ∧
        (∀ a, a ≠ b → u.bay a = s1.bay a) ∧
        (let found : Fin 64 → Entry → Prop := fun k e =>
            s1.indexAt (tagEntry s1.index.window tag) = some k ∧ s1.entry k = some e ∧ e.tag = tag ∧ e.state ≠ .departed
         (∀ k e, found k e → e.barred = true → d = .refused ∧ u.roster = s1.roster) ∧
         (∀ k e a x, found k e → e.barred = false → e.state = .plugged a x → a ≠ b →
            d = .duplicate ∧ u.roster = s1.roster ∧ u.dset.pending &&& DFlag.duplicateTag.bit ≠ 0) ∧
         (∀ k e, found k e → e.barred = false → (∀ a x, e.state = .plugged a x → a = b) →
            d = .rostered k ∧ u.entry k = some { e with state := .plugged b false } ∧
            ∀ j, j ≠ k → u.entry j = s1.entry j) ∧
         ((∀ k e, ¬ found k e) →
            d = (if s.settings.courtesy then .courtesy else .refused) ∧ u.roster = s1.roster ∧
            u.dset.pending &&& DFlag.unknownVan.bit ≠ 0)) ∧
        (∀ a, u.marked a = (s1.marked a || (s.alloc.snap.isSome && a == b))) ∧
        NoticeSet.SameBut 0x000F s1.dset u.dset ∧ NoticeSet.SameBut 0x0021 s1.sset u.sset ∧
        SameBut [.bays, .roster, .marks, .dset, .sset] s1 u)

/-- UNPLUG (R132, R23): by the state of the bay, the session ends, or the request is refused. METER with occupied = 0 (R134)
ends the session as by UNPLUG and takes no other field; at an UNFITTED or VACANT bay METER changes nothing, whatever the
occupied byte. -/
def Obligations.UnplugAndMeterEndTheSession : Prop :=
  (∀ (s : State) (c : Fin 4) (m : Msg) (o : Fin 8), s.Takes (.c c) .unplug m → m.unit = BitVec.ofNat 8 o.val →
     m.payload = [] →
     match (s.bay (bayAt c o)).occ with
     | .unfitted => exec (.unplug (.c c)) s = .next ((s.take (.c c)).sends (.c c) (m.answer Flag.badUnit.result))
     | .vacant => exec (.unplug (.c c)) s = .next ((s.take (.c c)).sends (.c c) (m.answer Flag.wrongState.result))
     | .session x => ∃ u, SessionEnds (s.take (.c c)) u (bayAt c o) x ∧
         exec (.unplug (.c c)) s = .next (u.sends (.c c) (m.answer 0))) ∧
  (∀ (s : State) (c : Fin 4) (m : Msg) (o : Fin 8) (occ d1 d0 w1 w0 p1 p0 a1 a0 q : Byte),
     s.Takes (.c c) .meter m → m.unit = BitVec.ofNat 8 o.val → m.payload = [occ, d1, d0, w1, w0, p1, p0, a1, a0, q] →
     match (s.bay (bayAt c o)).session with
     | none => exec (.meter (.c c)) s = .next (s.take (.c c))
     | some x => occ = 0 → ∃ u, SessionEnds (s.take (.c c)) u (bayAt c o) x ∧ exec (.meter (.c c)) s = .next u)

/-- METER of an occupied outlet in session (R20, R21, R90, R91, R93, R133): delivered energy never falls, powers are
clamped; a Plim below the published setpoint is cut at once; then the applied fields confirm the published setpoint, or,
with resync set, are adopted, cut, and, in CONFIGURE or HOLD, brought back to the earlier value; then the SATISFIED check.
That the earlier value is published as it stands, also below Pmin, is the model's choice (log 23). The Pmin of the cuts is
the one in force, in CONFIGURE that of the last entry to RUN or HOLD: the model's reading of R149 (log 24, deduced). -/
def Obligations.MeterUpdatesTheBay : Prop :=
  ∀ (s : State) (c : Fin 4) (m : Msg) (o : Fin 8) (occ d1 d0 w1 w0 p1 p0 a1 a0 q : Byte) (y : Session),
    s.Takes (.c c) .meter m → m.unit = BitVec.ofNat 8 o.val → m.payload = [occ, d1, d0, w1, w0, p1, p0, a1, a0, q] →
    occ ≠ 0 → (s.bay (bayAt c o)).session = some y → (s.bay (bayAt c o)).reachable = true →
    let b := bayAt c o
    let x := s.bay b
    let plim := min (min 1500 (field16 p1 p0)) x.pcap
    let cut : Nat × Seq × Bool → Nat × Seq × Bool := fun z =>
      if plim < z.1 then (cutTo s.settings.pminInForce plim, z.2.1 + 1, true) else z
    let first := cut (x.published, x.seq, false)
    let applied := min 1500 (field16 a1 a0)
    let adopted := cut (applied, BitVec.ofNat 3 q.toNat, false)
    let final := if s.mode ≠ .run ∧ first.1 < adopted.1 then (first.1, adopted.2.1 + 1, true) else adopted
    let met := { y with delivered := max y.delivered (field16 d1 d0), power := min 1500 (field16 w1 w0)
                        pveh := min 1500 (field16 p1 p0) }
    let reached := y.phase = .active ∧ (s.targetOf y.disp).any (fun target => target ≤ met.delivered) = true
    ∃ t, exec (.meter (.c c)) s = .next t ∧
      (x.resync = false →
        t.bay b = { x with
          occ := .session { met with phase := if reached then .satisfied else y.phase }
          published := first.1, seq := first.2.1
          confirmed := if q.toNat = first.2.1.toNat then first.1 else x.confirmed
          unconfirmed := if q.toNat = first.2.1.toNat then 0 else x.unconfirmed } ∧
        t.board b = if first.2.2 then some (first.1, first.2.1) else s.board b) ∧
      (x.resync = true →
        t.bay b = { x with
          occ := .session { met with phase := if reached then .satisfied else y.phase }
          published := final.1, seq := final.2.1, confirmed := applied, unconfirmed := 0, resync := false } ∧
        t.board b = if final.2.2 then some (final.1, final.2.1) else none) ∧
      (∀ a, a ≠ b → t.bay a = s.bay a ∧ t.board a = s.board a) ∧
      (reached → t.dset.pending &&& DFlag.satisfied.bit ≠ 0) ∧
      (∀ p, LinkPort.Kicked ((s.take (.c c)).port p) (t.port p)) ∧
      NoticeSet.SameBut 0x0010 s.dset t.dset ∧ NoticeSet.SameBut 0x0021 s.sset t.sset ∧
      SameBut [.bays, .board, .ports, .dset, .sset] s t

/-- OUTLET FAULT (R139, R22, R94): by the state of the bay, refused; or the code stored and the notice raised, and a bay not
yet in FAULT becomes FAULT and is published 0.0 kW at once, whatever its setpoint. -/
def Obligations.OutletFaultPublishesZero : Prop :=
  ∀ (s : State) (c : Fin 4) (m : Msg) (o : Fin 8) (code : Byte), s.Takes (.c c) .outletFault m →
    m.unit = BitVec.ofNat 8 o.val → m.payload = [code] → (s.bay (bayAt c o)).reachable = true →
    let b := bayAt c o
    let x := s.bay b
    match x.occ with
    | .unfitted => exec (.outletFault (.c c)) s = .next ((s.take (.c c)).sends (.c c) (m.answer Flag.badUnit.result))
    | .vacant => exec (.outletFault (.c c)) s = .next ((s.take (.c c)).sends (.c c) (m.answer Flag.wrongState.result))
    | .session y => ∃ u, exec (.outletFault (.c c)) s = .next (u.sends (.c c) (m.answer 0)) ∧
        (if ∃ old, y.phase = .fault old then
          u.bay b = { x with occ := .session { y with phase := .fault code } } ∧ u.board b = s.board b
         else
          u.bay b = { x with occ := .session { y with phase := .fault code }, published := 0, seq := x.seq + 1 } ∧
          u.board b = some (0, x.seq + 1)) ∧
        (∀ a, a ≠ b → u.bay a = s.bay a ∧ u.board a = s.board a) ∧
        u.sset.pending &&& SFlag.outletFault.bit ≠ 0 ∧
        (∀ p, LinkPort.Kicked ((s.take (.c c)).port p) (u.port p)) ∧
        NoticeSet.SameBut 0x0041 s.sset u.sset ∧ SameBut [.bays, .board, .ports, .sset] s u

/-! ### Dispatch requests (chapters 1, 2 and 9) -/

/-- ROSTER PUT of a tag that no slot holds (R12, R14): COLLISION, then ROSTER FULL, then the lowest-numbered free slot takes
the entry, clamped and WAITING, and the tag's index entry the slot. No bay in session holds the tag here (`PutRelinks`).
That a barred value of 1 is not CLAMPED is deduced (log 14). -/
def Obligations.PutOfANewTag : Prop :=
  ∀ (s : State) (m : Msg) (t2 t1 t0 d1 d0 e1 e0 k x : Byte), s.Takes .d .rosterPut m → m.unit = 0xFF →
    m.payload = [t2, t1, t0, d1, d0, e1, e0, k, x] →
    let tag := fieldTag t2 t1 t0
    let at' := tagEntry s.index.window tag
    (∀ j e, s.entry j = some e → e.tag ≠ tag) →
    ((s.indexAt at').isSome = true →
      exec (.rosterPut .d) s = .next ((s.take .d).sends .d (m.answer Flag.collision.result))) ∧
    (s.indexAt at' = none → (∀ j, (s.entry j).isSome = true) →
      exec (.rosterPut .d) s = .next ((s.take .d).sends .d (m.answer Flag.rosterFull.result))) ∧
    (∀ j, s.indexAt at' = none → s.entry j = none → (∀ i, i < j → (s.entry i).isSome = true) →
      (∀ b, s.relinks tag b = false) →
      exec (.rosterPut .d) s = .next (((((s.take .d).setEntry j (some
        { tag := tag, departure := min 4095 (field16 d1 d0), target := min 4000 (field16 e1 e0), cls := min 3 k.toNat
          barred := x != 0, state := .waiting, lastEnergy := none })).setIndex at' (some j))).sends .d
        (m.answer (if 4095 < field16 d1 d0 ∨ 4000 < field16 e1 e0 ∨ 3 < k.toNat ∨ 1 < x.toNat then Flag.clamped.result
          else 0))))

/-- ROSTER PUT of a rostered tag (R13): departure, target, class and barred are replaced, slot and state kept; a put that
bars a PLUGGED entry makes it leave PLUGGED, by the put's departure, and its bay REFUSED. A DEPARTED entry and one that stays
PLUGGED relink nothing (R15); an entry that the bar makes WAITING turns every other COURTESY or REFUSED bay of its tag
REFUSED. An entry WAITING before the put has no such bay here (`PutRelinks`). The put's departure and the clamping of
barred are deduced (logs 11 and 14). -/
def Obligations.PutOfARosteredTag : Prop :=
  ∀ (s : State) (m : Msg) (t2 t1 t0 d1 d0 e1 e0 k x : Byte) (j : Fin 64) (e : Entry), s.Takes .d .rosterPut m →
    m.unit = 0xFF → m.payload = [t2, t1, t0, d1, d0, e1, e0, k, x] →
    s.entry j = some e → e.tag = fieldTag t2 t1 t0 → (∀ i f, s.entry i = some f → f.tag = e.tag → i = j) →
    (e.state = .waiting → ∀ b, s.relinks e.tag b = false) →
    let e' := { e with departure := min 4095 (field16 d1 d0), target := min 4000 (field16 e1 e0), cls := min 3 k.toNat
                       barred := x != 0 }
    let refused : State → Fin 32 → Session → Prop := fun u a y => u.bay a = { s.bay a with occ := .session { y with
      disp := .refused
      phase := match y.phase with
        | .fault f => .fault f
        | _ => .barred } }
    let ans := m.answer (if 4095 < field16 d1 d0 ∨ 4000 < field16 e1 e0 ∨ 3 < k.toNat ∨ 1 < x.toNat
      then Flag.clamped.result else 0)
    (¬ (e.barred = false ∧ x ≠ 0 ∧ e.isPlugged = true) →
      exec (.rosterPut .d) s = .next (((s.take .d).setEntry j (some e')).sends .d ans)) ∧
    (∀ b o y, e.barred = false → x ≠ 0 → e.state = .plugged b o → (s.bay b).session = some y →
      ∃ u, exec (.rosterPut .d) s = .next (u.sends .d ans) ∧
        u.entry j = some { e' with state := if s.clock.minute < e'.departure then .waiting else .departed
                                   lastEnergy := some y.delivered } ∧
        (∀ i, i ≠ j → u.entry i = s.entry i) ∧ refused u b y ∧
        (∀ a z, a ≠ b → s.clock.minute < e'.departure → s.relinks e.tag a = true → (s.bay a).session = some z →
          refused u a z) ∧
        (∀ a, a ≠ b → ¬ (s.clock.minute < e'.departure ∧ s.relinks e.tag a = true) → u.bay a = s.bay a) ∧ NoticeSet.SameBut 0x0001 s.dset u.dset ∧
        SameBut [.roster, .bays, .dset] (s.take .d) u)

/-- The relinking of a put acted on at a WAITING entry (R15), one that held the tag before or the fresh one of a new tag in
the lowest-numbered free slot (R14): with barred 0 the lowest matching bay becomes ROSTERED, every other one DUPLICATE, with
one notice; with barred other than 0 every matching bay becomes REFUSED. The clamping of barred is deduced (log 14). -/
def Obligations.PutRelinks : Prop :=
  ∀ (s : State) (m : Msg) (t2 t1 t0 d1 d0 e1 e0 k x : Byte) (j : Fin 64) (e : Entry), s.Takes .d .rosterPut m →
    m.unit = 0xFF → m.payload = [t2, t1, t0, d1, d0, e1, e0, k, x] → e.tag = fieldTag t2 t1 t0 → e.state = .waiting →
    let at' := tagEntry s.index.window e.tag
    (s.entry j = some e ∧ ∀ i f, s.entry i = some f → f.tag = e.tag → i = j) ∨
      ((∀ i f, s.entry i = some f → f.tag ≠ e.tag) ∧ s.indexAt at' = none ∧ s.entry j = none ∧
        (∀ i, i < j → (s.entry i).isSome = true) ∧ e.lastEnergy = none) →
    let index := if s.entry j = none then (s.setIndex at' (some j)).index else s.index
    let e' := { e with departure := min 4095 (field16 d1 d0), target := min 4000 (field16 e1 e0), cls := min 3 k.toNat
                       barred := x != 0 }
    let ans := m.answer (if 4095 < field16 d1 d0 ∨ 4000 < field16 e1 e0 ∨ 3 < k.toNat ∨ 1 < x.toNat
      then Flag.clamped.result else 0)
    let takes : Fin 32 → State → Disposition → Phase → Prop := fun a u d ph =>
      ∀ y, (s.bay a).session = some y → u.bay a = { s.bay a with occ := .session { y with
        disp := d
        phase := match y.phase with
          | .fault f => .fault f
          | _ => ph } }
    (∀ b, x = 0 → s.relinks e.tag b = true → (∀ a, a < b → s.relinks e.tag a = false) →
      ∃ u, exec (.rosterPut .d) s = .next (u.sends .d ans) ∧
        u.entry j = some { e' with state := .plugged b false } ∧ (∀ i, i ≠ j → u.entry i = s.entry i) ∧
        takes b u (.rostered j) .active ∧
        (∀ a, a ≠ b → s.relinks e.tag a = true → takes a u .duplicate .barred) ∧
        (∀ a, s.relinks e.tag a = false → u.bay a = s.bay a) ∧
        u.dset = (if ∃ a, a ≠ b ∧ s.relinks e.tag a = true then s.dset.raise DFlag.duplicateTag.bit else s.dset) ∧
        u.index = index ∧ SameBut [.roster, .index, .bays, .dset] (s.take .d) u) ∧
    (x ≠ 0 →
      ∃ u, exec (.rosterPut .d) s = .next (u.sends .d ans) ∧ u.entry j = some e' ∧
        (∀ i, i ≠ j → u.entry i = s.entry i) ∧
        (∀ a, s.relinks e.tag a = true → takes a u .refused .barred) ∧
        (∀ a, s.relinks e.tag a = false → u.bay a = s.bay a) ∧ u.index = index ∧
        SameBut [.roster, .index, .bays] (s.take .d) u)

/-- ROSTER DROP (R16): NOT FOUND, IN USE, or the slot and the tag's index entry become free; no bay changes. -/
def Obligations.DropFreesTheSlot : Prop :=
  ∀ (s : State) (m : Msg) (t2 t1 t0 : Byte), s.Takes .d .rosterDrop m → m.unit = 0xFF → m.payload = [t2, t1, t0] →
    let tag := fieldTag t2 t1 t0
    ((∀ j e, s.entry j = some e → e.tag ≠ tag) →
      exec (.rosterDrop .d) s = .next ((s.take .d).sends .d (m.answer Flag.notFound.result))) ∧
    (∀ j e, s.entry j = some e → e.tag = tag → (∀ i f, s.entry i = some f → f.tag = tag → i = j) →
      (e.isPlugged = true → exec (.rosterDrop .d) s = .next ((s.take .d).sends .d (m.answer Flag.inUse.result))) ∧
      (e.isPlugged = false → exec (.rosterDrop .d) s = .next ((((s.take .d).setEntry j none).setIndex
        (tagEntry s.index.window tag) none).sends .d (m.answer 0))))

/-- CLOCK SET (R31, R32): the fields are clamped, the clock set (on the pulse time base the second stays 0), the roster
evaluated against the new minute, and the request answered. Taken at second 59 of the internal time base, it may have
overtaken a minute event that came together with it (R35, log 7). -/
def Obligations.ClockSetSetsAndEvaluates : Prop :=
  ∀ (s : State) (m : Msg) (m1 m0 sec : Byte), s.Takes .d .clockSet m → m.unit = 0xFF → m.payload = [m1, m0, sec] →
    let minute := min 4095 (field16 m1 m0)
    ∃ u, exec (.clockSet .d) s = .next (u.sends .d (m.answer
        (if 4095 < field16 m1 m0 ∨ 59 < sec.toNat then Flag.clamped.result else 0))) ∧
      u.clock = { minute := minute, second := if s.dedicated 1 = true then 0 else min 59 sec.toNat, fraction := 0
                  overtaken := decide (s.dedicated 1 = false ∧ (s.clock.second = 59 ∨ s.clock.overtaken = true)) } ∧
      (∀ j, u.entry j = (s.entry j).map (departed minute)) ∧ NoticeSet.SameBut 0x0001 s.dset u.dset ∧
      SameBut [.clock, .roster, .dset] (s.take .d) u

/-- The setting requests that change one group of settings alone: VAN POLICY (R143), REPLY LIMIT (R111), ALLOCATION SETUP
(R149; the Pmin in force stays until the next entry to RUN or HOLD, log 24, deduced), RAMP LIMIT (R46), PIN WRITE (R152). -/
def Obligations.SettingRequests : Prop :=
  (∀ (s : State) (m : Msg) (pol g : Byte), s.Takes .d .vanPolicy m → m.unit = 0xFF → m.payload = [pol, g] →
    exec (.vanPolicy .d) s = .next ({ s.take .d with
        settings := { s.settings with courtesy := decide (pol ≠ 0), guard := min 240 g.toNat } }.sends .d
      (m.answer (if 1 < pol.toNat ∨ 240 < g.toNat then Flag.clamped.result else 0)))) ∧
  (∀ (s : State) (p : Port) (m : Msg) (n : Byte), p = .d ∨ p = .s → s.Takes p .replyLimit m → m.unit = 0xFF →
    m.payload = [n] →
    exec (.replyLimit p) s = .next ({ s.take p with
        settings := { s.settings with
          limitD := if p = Port.d then max 6 (min 60 n.toNat) else s.settings.limitD
          limitS := if p = Port.s then max 6 (min 60 n.toNat) else s.settings.limitS } }.sends p
      (m.answer (if n.toNat < 6 ∨ 60 < n.toNat then Flag.clamped.result else 0)))) ∧
  (∀ (s : State) (m : Msg) (p1 p0 r : Byte), s.Takes .s .allocationSetup m → m.unit = 0xFF → m.payload = [p1, p0, r] →
    (s.mode ≠ .configure →
      exec (.allocationSetup .s) s = .next ((s.take .s).sends .s (m.answer Flag.wrongMode.result))) ∧
    (s.mode = .configure →
      exec (.allocationSetup .s) s = .next ({ s.take .s with
          settings := { s.settings with pmin := min 500 (field16 p1 p0), roundLength := max 8 (min 120 (r.toNat / 4 * 4)) }
          }.sends .s
        (m.answer (if 500 < field16 p1 p0 ∨ r.toNat % 4 ≠ 0 ∨ r.toNat < 8 ∨ 120 < r.toNat then Flag.clamped.result
          else 0))))) ∧
  (∀ (s : State) (m : Msg) (hi lo : Byte), s.Takes .s .rampLimit m → m.unit = 0xFF → m.payload = [hi, lo] →
    exec (.rampLimit .s) s =
      .next ({ s.take .s with env := { s.env with ramp := field16 hi lo } }.sends .s (m.answer 0))) ∧
  (∀ (s : State) (m : Msg) (l : Byte), s.Takes .s .pinWrite m → m.unit = 0xFF → m.payload = [l] →
    exec (.pinWrite .s) s = .next ({ s.take .s with pins := { s.pins with latch := l } }.sends .s (m.answer 0)))

/-- TAG WINDOW (R9, R145): refused outside CONFIGURE; in CONFIGURE a rebuild begins under the clamped window, unanswered, and
the D-port handler is HELD. -/
def Obligations.TagWindowBeginsARebuild : Prop :=
  ∀ (s : State) (m : Msg) (w : Byte), s.Takes .d .tagWindow m → m.unit = 0xFF → m.payload = [w] →
    (s.mode ≠ .configure → exec (.tagWindow .d) s = .next ((s.take .d).sends .d (m.answer Flag.wrongMode.result))) ∧
    (s.mode = .configure → ∃ t, exec (.tagWindow .d) s = .next t ∧
      t.rebuild = some { window := min 16 w.toNat, clamped := decide (16 < w.toNat) } ∧ t.handler .d = .held ∧
      SameBut [.rebuild] (s.take .d) t)

/-- INDEX_REBUILD_END (R9, R10): with no two occupied slots in one entry under the new window, that window and the index that
holds every occupied slot, and nothing else, are in force; on a collision window and index stay. The answer joins the queue
and the handler is released. On a DETACHED D-port the outcome stands and the answer is discarded (R118). -/
def Obligations.RebuildEndReplacesTheIndex : Prop :=
  ∀ (s : State) (r : Rebuild), s.resetLow = false → s.rebuild = some r →
    let answered : State → Mask → State := fun u x =>
      if (s.port .d).health = .detached then u
      else u.sends .d { kind := 0x80, unit := 0xFF, payload := 0x24 :: byte2 x.toNat }
    let apart := ∀ j i e f, s.entry j = some e → s.entry i = some f → tagEntry r.window e.tag = tagEntry r.window f.tag →
      j = i
    (apart → ∃ u, exec .indexRebuildEnd s = .next (answered u (if r.clamped then Flag.clamped.result else 0)) ∧
      u.index.window = r.window ∧ u.rebuild = none ∧
      (∀ i j, u.indexAt i = some j ↔ ∃ e, s.entry j = some e ∧ tagEntry r.window e.tag = i) ∧
      SameBut [.index, .rebuild] s u) ∧
    (¬ apart → exec .indexRebuildEnd s = .next (answered { s with rebuild := none } Flag.collision.result))

/-! ### Requests shared by both ports (R154) -/

/-- READ (R112): BAD UNIT for an item above 5 or an index outside its range, LIMIT TOO SMALL where a record exists and none
fits, and otherwise a DATA reply with the records from the first index on, as many as fit and as exist. The records of the
six items have the bytes of section 6.9. The 0xFF of an absent roster slot is the model's choice (log 22), and so is the
operand's `rise`, by which the sender tells of a recognised rising edge of a dedicated GP1 (R173, log 8). -/
def Obligations.ReadReturnsRecords : Prop :=
  (∀ (s : State) (p : Port) (pins : PinReading) (m : Msg) (item : Byte), p = .d ∨ p = .s → s.Takes p .read m →
     m.payload = [item] →
     let t : State := { s with pins := { s.pins with gp1 := s.pins.gp1 || (s.dedicated 1 && pins.rise) } }
     let records := t.records p pins.levels item.toNat
     let fit := ((if p = .d then s.settings.limitD else s.settings.limitS) - 3) / itemSize item.toNat
     let first := m.unit.toNat
     ((∀ top, itemTop item.toNat = some top → top < first) →
       exec (.read p pins) s = .next ((t.take p).sends p (m.answer Flag.badUnit.result))) ∧
     (∀ top, itemTop item.toNat = some top → first ≤ top → fit = 0 → first < records.length →
       exec (.read p pins) s = .next ((t.take p).sends p (m.answer Flag.limitTooSmall.result))) ∧
     (∀ top, itemTop item.toNat = some top → first ≤ top → (fit ≠ 0 ∨ records.length ≤ first) →
       exec (.read p pins) s = .next ((t.take p).sends p
         { kind := 0x81, unit := m.unit
           payload := [item, m.unit, if first + fit < records.length then BitVec.ofNat 8 (first + fit) else 0xFF] ++
             ((records.drop first).take fit).flatten }))) ∧
  (∀ (s : State) (p : Port) (pins : Byte) (item : Nat) (r : List Byte), item < 6 → r ∈ s.records p pins item →
     r.length = itemSize item) ∧
  (∀ (s : State) (p : Port) (pins : Byte),
     let bit : Bool → Nat → Nat := fun x n => if x then n else 0
     let modeCode : Mode → Byte := fun x => match x with
       | .configure => 0
       | .run => 1
       | .hold => 2
     -- STATUS
     (∃ levels, s.records p pins 0 = [
        [modeCode s.mode, match s.pendingMode with
          | some x => modeCode x
          | none => 0xFF,
         BitVec.ofNat 8 (s.straps.cabs.toNat + 4 * s.straps.baud.toNat)] ++
        byte2 s.clock.minute ++ byte1 s.clock.second ++
        byte2 (if p = .d then s.dset else s.sset).pending.toNat ++ byte1 (if p = .d then s.dset else s.sset).code ++
        [levels] ++ byte1 s.index.window ++ byte1 s.settings.guard] ∧
       ∀ n : Fin 8,
         (s.dedicated n.val = false →
           levels.getLsbD n.val = if s.pins.dir.getLsbD n.val then s.pins.latch.getLsbD n.val else pins.getLsbD n.val) ∧
         (s.dedicated n.val = true → n = 0 → levels.getLsbD n.val = s.pins.gp0) ∧
         (s.dedicated n.val = true → n = 1 → levels.getLsbD n.val = s.pins.gp1) ∧
         (s.dedicated n.val = true → 2 ≤ n.val → s.resetLow = false →
           s.pinDrive n = some (levels.getLsbD n.val))) ∧
     -- BAY
     ((s.records p pins 1).length = 32 ∧ ∀ (b : Fin 32) (r : List Byte), (s.records p pins 1)[b.val]? = some r →
       let x := s.bay b
       let capWord := byte2 (x.pcap % 2048 + 2048 * x.slot.val + bit x.reachable 8192 + bit x.resync 16384)
       let setpoints := byte2 (x.published % 2048 + 2048 * x.seq.toNat) ++ byte2 x.confirmed
       match x.occ with
       | .unfitted => r = [0x00, 0, 0, 0, 0xFF, 0] ++ capWord ++ [0, 0, 0, 0] ++ setpoints ++ [0, 0, 0, 0]
       | .vacant => r = [0x01, 0, 0, 0, 0xFF, 0] ++ capWord ++ [0, 0, 0, 0] ++ setpoints ++ [0, 0, 0, 0]
       | .session y =>
         let state : Nat := match y.phase with
           | .active => 2
           | .satisfied => 3
           | .barred => 4
           | .fault _ => 5
         let disp : Nat × Byte := match y.disp with
           | .rostered k => (1, BitVec.ofNat 8 k.val)
           | .courtesy => (2, 0xFF)
           | .refused => (3, 0xFF)
           | .duplicate => (4, 0xFF)
         let fault : Byte := match y.phase with
           | .fault code => code
           | _ => 0
         r = byte1 (state + 16 * disp.1) ++ byte3 y.tag ++ [disp.2, fault] ++ capWord ++ byte2 y.pveh ++
           byte2 y.delivered ++ setpoints ++ match y.last with
             | none => [0, 0, 0, 0]
             | some l => byte2 (l.grant % 2048 + 4096 + bit l.late 8192 + bit l.atRisk 16384 + bit l.belowMin 32768) ++
                 byte2 (l.laxity % 65536).toNat) ∧
     -- ROSTER
     ((s.records p pins 2).length = 64 ∧ ∀ (j : Fin 64) (r : List Byte), (s.records p pins 2)[j.val]? = some r →
       match s.entry j with
       | none => r = List.replicate 14 0
       | some e =>
         let fields : Byte × Byte × Nat := match e.state with
           | .waiting => (1, 0xFF, 0)
           | .plugged b overdue => (2, BitVec.ofNat 8 b.val, bit overdue 1)
           | .departed => (3, 0xFF, 0)
         r = byte3 e.tag ++ byte2 e.departure ++ byte2 e.target ++ byte1 e.cls ++ byte1 (bit e.barred 1) ++
           [fields.1, fields.2.1] ++ match e.lastEnergy with
             | none => byte1 fields.2.2 ++ [0, 0]
             | some q => byte1 (fields.2.2 + 2) ++ byte2 q) ∧
     -- ORDER, ENVELOPE, LINKS
     s.records p pins 3 = s.alloc.order.map (fun b => byte1 b.val) ∧
     s.records p pins 4 = [byte2 s.env.pSite ++ byte2 s.env.other ++ byte2 s.env.effective ++ byte2 s.env.inForce ++
       byte2 s.total ++ byte2 ((allBays.map fun b => (((s.bay b).session).map (·.power)).getD 0).sum)] ∧
     s.records p pins 5 = [Port.d, .s, .c 0, .c 1, .c 2, .c 3].map fun q => byte1 (s.port q).errors ++
       match (s.port q).health with
       | .sound => [0]
       | .warning => [1]
       | .degraded => [2]
       | .detached => [3])

/-- NOTICE ENABLE and NOTICE CLEAR (R167, R154): the mask replaces the enables of the asking port's set; a clear removes every
named flag but a held flag whose condition stands; bits that name no flag are ignored, and the other set is untouched. -/
def Obligations.NoticeRequestsActOnOneSet : Prop :=
  ∀ (s : State) (p : Port) (m : Msg) (hi lo : Byte), p = .d ∨ p = .s → m.unit = 0xFF → m.payload = [hi, lo] →
    (s.Takes p .noticeEnable m → ∃ u, exec (.noticeEnable p) s = .next (u.sends p (m.answer 0)) ∧
      (p = .d → u.dset = { s.dset with enable := (hi ++ lo) &&& 0x003F } ∧ SameBut [.dset] (s.take p) u) ∧
      (p = .s → u.sset = { s.sset with enable := (hi ++ lo) &&& 0x00FF } ∧ SameBut [.sset] (s.take p) u)) ∧
    (s.Takes p .noticeClear m → ∃ u, exec (.noticeClear p) s = .next (u.sends p (m.answer 0)) ∧
      (p = .d → SameBut [.dset] (s.take p) u ∧ u.dset.enable = s.dset.enable ∧ u.dset.cond = s.dset.cond ∧
        ∀ k, k < 16 → u.dset.pending.getLsbD k = (s.dset.pending.getLsbD k &&
          !((hi ++ lo).getLsbD k && decide (k < 6) && !s.dset.cond.getLsbD k))) ∧
      (p = .s → SameBut [.sset] (s.take p) u ∧ u.sset.enable = s.sset.enable ∧ u.sset.cond = s.sset.cond ∧
        ∀ k, k < 16 → u.sset.pending.getLsbD k = (s.sset.pending.getLsbD k &&
          !((hi ++ lo).getLsbD k && decide (k < 8) && !s.sset.cond.getLsbD k))))

/-! ### Site requests (chapters 3, 7, 9 and 10) -/

/-- SITE LIMIT (R38): P_site takes the value, ENVELOPE EXCEEDED is evaluated, and an early round is requested where the total
allowance now exceeds Env. -/
def Obligations.SiteLimitSetsTheLimit : Prop :=
  ∀ (s : State) (m : Msg) (hi lo : Byte), s.Takes .s .siteLimit m → m.unit = 0xFF → m.payload = [hi, lo] →
    ∃ u v, exec (.siteLimit .s) s = .next (v.sends .s (m.answer 0)) ∧
      u.env = { s.env with pSite := field16 hi lo } ∧
      u.sset = s.sset.setCond SFlag.envelopeExceeded.bit (decide (u.env.inForce < s.total)) ∧
      SameBut [.env, .sset] (s.take .s) u ∧
      (if u.env.inForce < s.total then EarlyRound u v else v = u)

/-- LOAD REPORT (R39): O takes the value, load-stale and its count are cleared, ENVELOPE EXCEEDED and LOAD STALE are
evaluated, and an early round is requested where the total allowance now exceeds Env. -/
def Obligations.LoadReportSetsTheLoad : Prop :=
  ∀ (s : State) (m : Msg) (hi lo : Byte), s.Takes .s .loadReport m → m.unit = 0xFF → m.payload = [hi, lo] →
    ∃ u v, exec (.loadReport .s) s = .next (v.sends .s (m.answer 0)) ∧
      u.env = { s.env with other := field16 hi lo, stale := false, rounds := 0 } ∧
      u.sset = (s.sset.setCond SFlag.envelopeExceeded.bit (decide (u.env.inForce < s.total))).setCond
        SFlag.loadStale.bit false ∧
      SameBut [.env, .sset] (s.take .s) u ∧
      (if u.env.inForce < s.total then EarlyRound u v else v = u)

/-- The derived envelope figures (R41, R43): O_eff, Env_base and Env. -/
def Obligations.EnvelopeFigures : Prop :=
  ∀ e : Envelope,
    (e.stale = false → e.effective = e.other) ∧
    (e.stale = true → e.effective = min e.pSite (e.other + e.pSite / 8)) ∧
    (e.effective ≤ e.pSite → e.base + e.effective = e.pSite) ∧ (e.pSite ≤ e.effective → e.base = 0) ∧
    (e.shed = false → e.inForce = e.base) ∧ (e.shed = true → e.inForce = e.base / 2)

/-- MODE REQUEST (R146, R157 to R160): a value above 2 is refused; during a pass the value becomes the pending mode; otherwise
it takes effect at once, before the answer is formed. From an entry to RUN or HOLD the Pmin last set governs (R149). -/
def Obligations.ModeRequestChangesTheMode : Prop :=
  ∀ (s : State) (m : Msg) (b : Byte), s.Takes .s .modeRequest m → m.unit = 0xFF → m.payload = [b] →
    (2 < b.toNat → exec (.modeRequest .s) s = .next ((s.take .s).sends .s (m.answer Flag.badUnit.result))) ∧
    (∀ x : Mode, x.code = b.toNat →
      (s.alloc.snap.isSome = true →
        exec (.modeRequest .s) s = .next ({ s.take .s with pendingMode := some x }.sends .s (m.answer 0))) ∧
      (s.alloc.snap = none →
        ∃ u, ModeTakesEffect (s.take .s) u x ∧ exec (.modeRequest .s) s = .next (u.sends .s (m.answer 0))))

/-- RESTART (R147, R161, R162): what every block loses and keeps; LOAD STALE and SHED ACTIVE are raised again where they
stand; the answer joins the kept S-port queue. The Pmin in force is kept with the Pmin set (log 24, deduced). -/
def Obligations.RestartLosesAndKeeps : Prop :=
  ∀ (s : State) (m : Msg), s.Takes .s .restart m → m.unit = 0xFF → m.payload = [] →
    let standing : Mask := (if s.env.shed then 0x0002 else 0) ||| (if s.env.stale then 0x0010 else 0)
    ∃ u, exec (.restart .s) s = .next (u.sends .s (m.answer 0)) ∧ u.mode = .configure ∧ u.pendingMode = none ∧
      u.rebuild = none ∧ u.alloc.timer = none ∧ u.alloc.snap = none ∧ (∀ b, u.marked b = false) ∧ u.alloc.order = [] ∧
      u.alloc.early = false ∧ (∀ b, u.pendingInc b = none ∧ u.board b = none) ∧ u.pub.used = 0 ∧ u.pub.slotTimes = [] ∧
      (∀ b, u.bay b = { occ := .unfitted, pcap := 0, published := 0, seq := 0, confirmed := 0, unconfirmed := 0
                        slot := (s.bay b).slot, reachable := true, resync := false }) ∧
      (∀ k, u.entry k = (s.entry k).map fun e => match e.state with
        | .plugged b _ => { e with state := .waiting
                                   lastEnergy := some (((s.bay b).session.map (·.delivered)).getD 0) }
        | _ => e) ∧
      (∀ p, u.port p = { s.port p with
        errors := 0, health := .sound, rejoin := 0
        buffers := if p = .s then (s.port p).buffers.tail else []
        queue := if p = .s then (s.port p).queue else [] }) ∧
      (∀ c, u.cabinet c = { silence := none, roundEnd := false, staleRounds := 0 }) ∧
      u.dset = { s.dset with pending := 0, cond := 0 } ∧ u.sset = { s.sset with pending := standing, cond := standing } ∧
      SameBut [.mode, .pendingMode, .bays, .roster, .rebuild, .timer, .pass, .marks, .order, .early, .increases, .board,
        .budget, .slotTimes, .ports, .cabinets, .dset, .sset] s u

/-- RELEASE CABINET (R125): BAD UNIT for a cabinet not strapped present, WRONG STATE unless its port is DETACHED, and
otherwise every session of the cabinet ends; its other bays, other cabinets and the port are unchanged. -/
def Obligations.ReleaseCabinetEndsItsSessions : Prop :=
  ∀ (s : State) (m : Msg) (c : Fin 4), s.Takes .s .releaseCabinet m → m.unit = BitVec.ofNat 8 c.val → m.payload = [] →
    s.RosterOk →
    (s.straps.cabs.toNat < c.val →
      exec (.releaseCabinet .s) s = .next ((s.take .s).sends .s (m.answer Flag.badUnit.result))) ∧
    (c.val ≤ s.straps.cabs.toNat → (s.port (.c c)).health ≠ .detached →
      exec (.releaseCabinet .s) s = .next ((s.take .s).sends .s (m.answer Flag.wrongState.result))) ∧
    (c.val ≤ s.straps.cabs.toNat → (s.port (.c c)).health = .detached →
      ∃ u, exec (.releaseCabinet .s) s = .next (u.sends .s (m.answer 0)) ∧
        (∀ b x, cabinetOf b = c → (s.bay b).session = some x →
          u.bay b = { s.bay b with occ := .vacant, published := 0, seq := 0, confirmed := 0, unconfirmed := 0 } ∧
          u.board b = none ∧ u.pendingInc b = none ∧
          ∀ k e, x.disp = .rostered k → s.entry k = some e → u.entry k = some { e with
            state := if s.clock.minute < e.departure then .waiting else .departed, lastEnergy := some x.delivered }) ∧
        (∀ b, ¬ (cabinetOf b = c ∧ (s.bay b).inSession = true) →
          u.bay b = s.bay b ∧ u.board b = s.board b ∧ u.pendingInc b = s.pendingInc b) ∧
        (∀ k, (∀ b, cabinetOf b = c → s.namedSlot b ≠ some k) → u.entry k = s.entry k) ∧
        (∀ b, u.marked b = (s.marked b ||
          (s.alloc.snap.isSome && decide (cabinetOf b = c) && (s.bay b).inSession))) ∧
        NoticeSet.SameBut 0x0003 s.dset u.dset ∧ NoticeSet.SameBut 0x0021 s.sset u.sset ∧
        SameBut [.bays, .roster, .board, .increases, .marks, .dset, .sset] (s.take .s) u)

/-- SLOT ASSIGN (R150): WRONG MODE outside CONFIGURE, BAD UNIT for a slot above 3, and otherwise the bay's slot takes the
value. -/
def Obligations.SlotAssignSetsTheSlot : Prop :=
  ∀ (s : State) (m : Msg) (b : Fin 32) (k : Byte), s.Takes .s .slotAssign m → m.unit = BitVec.ofNat 8 b.val →
    m.payload = [k] →
    (s.mode ≠ .configure → exec (.slotAssign .s) s = .next ((s.take .s).sends .s (m.answer Flag.wrongMode.result))) ∧
    (s.mode = .configure → 3 < k.toNat →
      exec (.slotAssign .s) s = .next ((s.take .s).sends .s (m.answer Flag.badUnit.result))) ∧
    (∀ h : k.toNat < 4, s.mode = .configure →
      exec (.slotAssign .s) s =
        .next (((s.take .s).setBay b { s.bay b with slot := ⟨k.toNat, h⟩ }).sends .s (m.answer 0)))

/-- PIN SETUP (R151, R172, R29, R42): outside CONFIGURE the direction mask alone is taken, and only with the functions in
force; in CONFIGURE both masks are, with the effects on the clock (GP1) and on the shed (GP0). -/
def Obligations.PinSetupSetsThePins : Prop :=
  ∀ (s : State) (m : Msg) (pins fn dir : Byte), s.Takes .s .pinSetup m → m.unit = 0xFF → m.payload = [fn, dir] →
    (s.mode ≠ .configure → fn ≠ s.pins.fn →
      exec (.pinSetup .s pins) s = .next ((s.take .s).sends .s (m.answer Flag.wrongMode.result))) ∧
    (s.mode ≠ .configure → fn = s.pins.fn →
      exec (.pinSetup .s pins) s =
        .next ({ s.take .s with pins := { s.pins with dir := dir } }.sends .s (m.answer 0))) ∧
    (s.mode = .configure → s.EnvelopeOk →
      ∃ u, exec (.pinSetup .s pins) s = .next (u.sends .s (m.answer 0)) ∧
        u.pins.fn = fn ∧ u.pins.dir = dir ∧ u.pins.latch = s.pins.latch ∧
        u.pins.gp0 = (if fn.getLsbD 0 = true ∧ s.dedicated 0 = false then pins.getLsbD 0 else s.pins.gp0) ∧
        u.pins.gp1 = (if fn.getLsbD 1 = true ∧ s.dedicated 1 = false then pins.getLsbD 1 else s.pins.gp1) ∧
        u.clock = (if fn.getLsbD 1 = s.dedicated 1 then s.clock else { s.clock with second := 0, fraction := 0, overtaken := false }) ∧
        u.env = { s.env with shed := fn.getLsbD 0 && !u.pins.gp0 } ∧
        (u.env.shed ≠ s.env.shed → (u.sset.cond &&& SFlag.shedActive.bit ≠ 0 ↔ u.env.shed = true)) ∧
        NoticeSet.SameBut 0x0003 s.sset u.sset ∧ SameBut [.pins, .clock, .env, .sset] (s.take .s) u)

/-! ### Clock, shed, rounds (chapters 2 to 5) -/

/-- SECOND_COMPLETE and MINUTE_EVENT on the internal time base (R28, R30): below 59 the second counter advances; at 59 it
wraps and the clock takes a minute event, which holds at 4095 and runs a departure evaluation (R32). MINUTE_PULSE (R29):
a recognised falling edge of a dedicated GP1 is a minute event, and the second counter is not touched. That both rows bring
the one event is deduced (log 7), and so is a MINUTE_EVENT away from second 59: one that a CLOCK SET has overtaken advances
the minute from the value set, with its own evaluation (R35), and with none overtaken nothing comes about. -/
def Obligations.SecondsAndMinutesPass : Prop :=
  (∀ s : State, s.resetLow = false → s.dedicated 1 = false →
     (s.clock.second < 59 → ∃ t, exec .secondComplete s = .next t ∧ SameBut [.clock] s t ∧
       t.clock = { s.clock with second := s.clock.second + 1, fraction := 0, overtaken := false }) ∧
     (s.clock.second = 59 → ∀ c, c = .secondComplete ∨ c = .minuteEvent → ∃ t, exec c s = .next t ∧
       t.clock = { minute := min 4095 (s.clock.minute + 1), second := 0, fraction := 0
                   overtaken := s.clock.overtaken && decide (c = .minuteEvent) } ∧
       (∀ j, t.entry j = (s.entry j).map (departed (min 4095 (s.clock.minute + 1)))) ∧
       NoticeSet.SameBut 0x0001 s.dset t.dset ∧ SameBut [.clock, .roster, .dset] s t) ∧
     (s.clock.second ≠ 59 → s.clock.overtaken = true → ∃ t, exec .minuteEvent s = .next t ∧
       t.clock = { s.clock with minute := min 4095 (s.clock.minute + 1), overtaken := false } ∧
       (∀ j, t.entry j = (s.entry j).map (departed (min 4095 (s.clock.minute + 1)))) ∧
       NoticeSet.SameBut 0x0001 s.dset t.dset ∧ SameBut [.clock, .roster, .dset] s t) ∧
     (s.clock.second ≠ 59 → s.clock.overtaken = false → exec .minuteEvent s = .next s)) ∧
  (∀ s : State, s.resetLow = false → s.dedicated 1 = true →
     ∃ t, exec .minutePulse s = .next t ∧ t.clock = { s.clock with minute := min 4095 (s.clock.minute + 1) } ∧
       (∀ j, t.entry j = (s.entry j).map (departed (min 4095 (s.clock.minute + 1)))) ∧
       t.pins = { s.pins with gp1 := false } ∧ NoticeSet.SameBut 0x0001 s.dset t.dset ∧
       SameBut [.clock, .roster, .pins, .dset] s t)

/-- SHED_ASSERTION (R44, R92): shed is in force; in RUN or HOLD every reachable bay above 0.0 kW is published half its
setpoint, or 0.0 kW below the Pmin in force (R149), and an early round is requested; SHED ACTIVE begins. -/
def Obligations.ShedHalvesSetpoints : Prop :=
  ∀ s : State, s.resetLow = false → s.dedicated 0 = true → s.pins.gp0 = true →
    ∃ u t, exec .shedAssertion s = .next t ∧ EarlyRound u t ∧
      u.pins = { s.pins with gp0 := false } ∧ u.env = { s.env with shed := true } ∧
      (∀ b, let x := s.bay b
        let v := if x.published / 2 < s.settings.pminInForce then 0 else x.published / 2
        if s.mode ≠ .configure ∧ x.reachable = true ∧ 0 < x.published then
          u.bay b = { x with published := v, seq := x.seq + 1 } ∧ u.board b = some (v, x.seq + 1)
        else u.bay b = x ∧ u.board b = s.board b) ∧
      u.sset.cond &&& SFlag.shedActive.bit ≠ 0 ∧ NoticeSet.SameBut 0x0003 s.sset u.sset ∧
      (∀ p, LinkPort.Kicked (s.port p) (u.port p)) ∧ SameBut [.pins, .env, .bays, .board, .ports, .sset] s u

/-- SHED_RELEASE (R45): shed is no longer in force, Env becomes Env_base, SHED ACTIVE ends, ENVELOPE EXCEEDED is evaluated, nothing is published
and no round requested. -/
def Obligations.ShedReleaseRestoresTheEnvelope : Prop :=
  ∀ s : State, s.resetLow = false → s.dedicated 0 = true → s.pins.gp0 = false →
    ∃ t, exec .shedRelease s = .next t ∧ t.env = { s.env with shed := false } ∧ t.env.inForce = s.env.base ∧
      t.pins = { s.pins with gp0 := true } ∧
      t.sset = (s.sset.setCond SFlag.shedActive.bit false).setCond SFlag.envelopeExceeded.bit
        (decide (t.env.inForce < s.total)) ∧
      SameBut [.env, .pins, .sset] s t

/-- ROUND_TIMER_EXPIRY (R77, R79): with no pass in flight, a running round timer's expiry is a round start. -/
def Obligations.TimerExpiryStartsARound : Prop :=
  ∀ (s : State) (n : Nat), s.resetLow = false → s.alloc.timer = some n → s.alloc.snap = none →
    ∃ t, exec .roundTimerExpiry s = .next t ∧ RoundStarts s t

/-- PASS_COMPLETION in HOLD or RUN (R72, R82 to R86): last pass results, service order, decreases; in RUN the pending
increases are noted and slot 0 is taken along the new order; then the pass ends. -/
def Obligations.PassCompletionHandsOver : Prop :=
  ∀ (s : State) (sn : Snapshot), s.resetLow = false → s.alloc.snap = some sn → s.mode ≠ .configure →
    s.pendingMode = none → s.alloc.early = false → (∀ b, s.pendingInc b = none) →
    ∃ u v t, exec .passCompletion s = .next t ∧
      u.alloc.order = sn.order.filter (fun b => !s.marked b) ∧
      (∀ b y f, s.marked b = false → sn.figures b = some f → (s.bay b).session = some y →
        (u.bay b).occ = .session { y with
          last := some { grant := sn.grant b, late := f.late, atRisk := f.atRisk, belowMin := f.belowMin
                         laxity := f.laxity } }) ∧
      (∀ b, (s.marked b = true ∨ sn.figures b = none) → (u.bay b).occ = (s.bay b).occ) ∧
      (∀ b, let x := s.bay b
        if s.marked b = false ∧ sn.frozen b = false ∧ sn.grant b < x.published ∧ x.reachable = true then
          u.bay b = { x with occ := (u.bay b).occ, published := sn.grant b, seq := x.seq + 1 } ∧
          u.board b = some (sn.grant b, x.seq + 1)
        else u.bay b = { x with occ := (u.bay b).occ } ∧ u.board b = s.board b) ∧
      (∀ b, let x := s.bay b
        u.pendingInc b =
          if s.mode = .run ∧ s.marked b = false ∧ sn.eligible b = true ∧ x.reachable = true ∧ x.published < sn.grant b then
            some (sn.grant b)
          else none) ∧
      (∀ p, LinkPort.Kicked (s.port p) (u.port p)) ∧ NoticeSet.SameBut 0x0002 s.dset u.dset ∧
      NoticeSet.SameBut 0x0001 s.sset u.sset ∧
      SameBut [.order, .bays, .board, .increases, .ports, .dset, .sset] s u ∧
      (if s.mode = .run then SlotTaken 0 u.alloc.order { u with pub := { u.pub with used := 0 } } v else v = u) ∧
      t.alloc.snap = none ∧ (∀ b, t.marked b = false) ∧ SameBut [.pass, .marks] v t

/-- The end of PASS_COMPLETION (R82, parts 5 and 6): after the pass is handed over, a pending mode takes effect, and a held
early-round request starts a round, or is discarded in CONFIGURE. -/
def Obligations.PassCompletionTakesWhatIsHeld : Prop :=
  ∀ (s : State) (sn : Snapshot), s.resetLow = false → s.alloc.snap = some sn →
    ∃ u v t, exec .passCompletion { s with pendingMode := none, alloc := { s.alloc with early := false } } = .next u ∧
      exec .passCompletion s = .next t ∧
      (match s.pendingMode with
        | none => v = { u with alloc := { u.alloc with early := s.alloc.early } }
        | some m => ModeTakesEffect { u with pendingMode := some m, alloc := { u.alloc with early := s.alloc.early } } v m) ∧
      (if v.alloc.early = true ∧ v.mode ≠ .configure then
        RoundStarts { v with alloc := { v.alloc with early := false } } t
       else t = { v with alloc := { v.alloc with early := false } })

/-- SLOT (R86, R87, R46): the slot budget starts at 0.0 kW, and the slot is taken along the service order: several increases
share room and budget in that order. With no increase pending for a bay of the slot nothing is published. That SLOT k takes
its own slot time and those before it off the list is the model's (log 21, deduced, on log 4). -/
def Obligations.SlotPublishesAnIncrease : Prop :=
  ∀ (s : State) (k : Fin 4), s.resetLow = false → s.mode ≠ .configure → s.alloc.snap = none →
    (∃ n, (k, n) ∈ s.pub.slotTimes) →
    let begun : State := { s with pub := { s.pub with used := 0, slotTimes := s.pub.slotTimes.filter fun x => k < x.1 } }
    ∃ t, exec (.slot k) s = .next t ∧ SlotTaken k s.alloc.order begun t ∧
      ((∀ b, (s.bay b).slot = k → s.pendingInc b = none) → t = begun)

/-! ### Alert lines and pins (chapters 11 and 12) -/

/-- The alert lines, the notice code and the levels the part drives (R168, R171, R174); a DEDICATED GP0 or GP1 is an input and
drives nothing (R173). -/
def Obligations.AlertLinesAndPins : Prop :=
  (∀ s : State, s.resetLow = false →
    (s.alertD = true ↔ ∃ k, k < 16 ∧ s.dset.pending.getLsbD k = true ∧ s.dset.enable.getLsbD k = true) ∧
    (s.alertS = true ↔ ∃ k, k < 16 ∧ s.sset.pending.getLsbD k = true ∧ s.sset.enable.getLsbD k = true) ∧
    (∀ n : Fin 8, s.dedicated n.val = false →
      s.pinDrive n = if s.pins.dir.getLsbD n.val then some (s.pins.latch.getLsbD n.val) else none) ∧
    (∀ n : Fin 8, n.val < 2 → s.dedicated n.val = true → s.pinDrive n = none) ∧
    (s.dedicated 2 = true → s.pinDrive 2 = some (decide (s.mode = .run))) ∧
    (s.dedicated 3 = true → s.pinDrive 3 = some (!(s.alertD || s.alertS))) ∧
    (∀ c : Fin 4, s.dedicated (4 + c.val) = true → s.pinDrive ⟨4 + c.val, by omega⟩ = some (decide
      (s.mode ≠ .configure ∧ c.val ≤ s.straps.cabs.toNat ∧ (s.port (.c c)).health ≠ .detached)))) ∧
  (∀ n : NoticeSet, n.Ok ssetBits →
    (n.code = 0 ↔ n.pending &&& n.enable = 0) ∧
    ∀ k, n.code = k + 1 → (n.pending.getLsbD k && n.enable.getLsbD k) = true ∧
      ∀ i, i < k → (n.pending.getLsbD i && n.enable.getLsbD i) = false)

/-! ### What no command breaks -/

/-- No command but the METER of a bay with resync set (R91) raises the total allowance above the envelope in force (R87,
R97): after it the total is at most what it was, or at most Env. The links are as `KeepsLinks` keeps them: a DETACHED port
has nothing buffered (R118), so no METER is taken there. -/
def Obligations.TotalStaysUnderTheEnvelope : Prop :=
  ∀ (c : Instr) (s t : State), s.LinksOk →
    (∀ n m, c = .meter (.c n) → s.Takes (.c n) .meter m → (s.bay (bayOfUnit n m.unit)).resync = false) →
    exec c s = .next t → t.total ≤ max s.total s.env.inForce

/-- The grants of a pass (R71): the eligible grants sum to at most A; each is 0 or lies from Pmin to the pass Plim; a
zero-class grant is 0; a frozen grant is the published setpoint of the snapshot; and all grants together do not exceed the
larger of Env and Rv. -/
def Obligations.GrantsOfAPass : Prop :=
  ∀ sn : Snapshot,
    ((allBays.filter sn.eligible).map sn.grant).sum ≤ sn.available ∧
    (∀ b, sn.eligible b = true → sn.grant b = 0 ∨ (sn.pmin ≤ sn.grant b ∧ sn.grant b ≤ sn.plim b)) ∧
    (∀ b, sn.eligible b = false → sn.frozen b = false → sn.grant b = 0) ∧
    (∀ b, sn.frozen b = true → sn.grant b = (sn.at b).bay.published) ∧
    (allBays.map sn.grant).sum ≤ max sn.env sn.reserve

/-- The service order of a pass (R67): the eligible bays, each once, the rostered before the others; rostered bays by class,
laxity, departure and bay number, the others by bay number. -/
def Obligations.ServiceOrder : Prop :=
  ∀ sn : Snapshot,
    (∀ b, b ∈ sn.order ↔ sn.eligible b = true) ∧ sn.order.Nodup ∧
    sn.order.Pairwise (fun a b =>
      ((sn.at a).isRostered = true ∧ (sn.at b).isRostered = false) ∨
      ((sn.at a).isRostered = true ∧ (sn.at b).isRostered = true ∧
        Prod.Lex (· < ·) (Prod.Lex (· < ·) (Prod.Lex (· < ·) (· < ·)))
          ((sn.keys a).1, (sn.keys a).2.1, (sn.keys a).2.2, a) ((sn.keys b).1, (sn.keys b).2.1, (sn.keys b).2.2, b)) ∨
      ((sn.at a).isRostered = false ∧ (sn.at b).isRostered = false ∧ a < b))

/-- The state right after reset meets every invariant. -/
def Obligations.ResetMeetsTheInvariants : Prop :=
  State.reset.LinksOk ∧ State.reset.ReachOk ∧ State.reset.BaysOk ∧ State.reset.PassOk ∧ State.reset.RosterOk ∧
    State.reset.IndexOk ∧ State.reset.EntriesOk ∧ State.reset.ClockOk ∧ State.reset.EnvelopeOk ∧
    State.reset.SettingsOk ∧ State.reset.ModeOk ∧ State.reset.NoticesOk

/-- Every step keeps the link ports and the reachability of bays as R104, R109, R116, R118, R119 and R121 leave them. -/
def Obligations.KeepsLinks : Prop :=
  ∀ s t : State, s.LinksOk → s.ReachOk → step s = .next t → t.LinksOk ∧ t.ReachOk

/-- Every step keeps the bay records in the ranges and combinations of R1 and R2, and the published setpoints within Plim
(R93). -/
def Obligations.KeepsBays : Prop :=
  ∀ s t : State, s.LinksOk → s.ReachOk → s.BaysOk → s.PassOk → step s = .next t → t.BaysOk ∧ t.PassOk

/-- Every step keeps Bay Table and Van Roster in agreement (R6), the Tag Index true of the roster (R7), and the roster's
fields in their ranges (R5, R12). -/
def Obligations.KeepsTheRoster : Prop :=
  (∀ s t : State, s.RosterOk → step s = .next t → t.RosterOk) ∧
  (∀ s t : State, s.IndexOk → s.EntriesOk → step s = .next t → t.IndexOk ∧ t.EntriesOk)

/-- Every step keeps clock, envelope and settings in their ranges (R27, R29, R37, R42, R54, R77, R111). -/
def Obligations.KeepsClockEnvelopeAndSettings : Prop :=
  ∀ s t : State, s.ClockOk → s.EnvelopeOk → s.SettingsOk → step s = .next t → t.ClockOk ∧ t.EnvelopeOk ∧ t.SettingsOk

/-- Every step keeps what the mode allows (R77, R78, R85, R96, R156, R158), and in RUN and HOLD the Pmin last set is the one in
force (R149). -/
def Obligations.KeepsTheMode : Prop := ∀ s t : State, s.ModeOk → step s = .next t → t.ModeOk

/-- Every step keeps every condition indicator equal to its condition, and a held flag pending while it stands (R164,
R166). -/
def Obligations.KeepsTheNotices : Prop := ∀ s t : State, s.NoticesOk → step s = .next t → t.NoticesOk
end

