-- ==== Sys2Proof/Laws/State.lean ====
section
/-!
SUPPORT. Reading a record after writing one: one lemma for each named update and each field or record it leaves alone,
true by rfl, and the read-after-write lemmas of every kind of record. No later proof unfolds an update.
-/
namespace Sys2Proof.Machine

/-! ### What is not written stays -/

/-! `setBay` -/

@[simp] theorem State.setBay_pending (s : State) (a : Fin 32) (x : Bay) : (s.setBay a x).pending = s.pending := rfl
@[simp] theorem State.setBay_resetLow (s : State) (a : Fin 32) (x : Bay) : (s.setBay a x).resetLow = s.resetLow := rfl
@[simp] theorem State.setBay_straps (s : State) (a : Fin 32) (x : Bay) : (s.setBay a x).straps = s.straps := rfl
@[simp] theorem State.setBay_mode (s : State) (a : Fin 32) (x : Bay) : (s.setBay a x).mode = s.mode := rfl
@[simp] theorem State.setBay_pendingMode (s : State) (a : Fin 32) (x : Bay) : (s.setBay a x).pendingMode = s.pendingMode := rfl
@[simp] theorem State.setBay_roster (s : State) (a : Fin 32) (x : Bay) : (s.setBay a x).roster = s.roster := rfl
@[simp] theorem State.setBay_index (s : State) (a : Fin 32) (x : Bay) : (s.setBay a x).index = s.index := rfl
@[simp] theorem State.setBay_rebuild (s : State) (a : Fin 32) (x : Bay) : (s.setBay a x).rebuild = s.rebuild := rfl
@[simp] theorem State.setBay_clock (s : State) (a : Fin 32) (x : Bay) : (s.setBay a x).clock = s.clock := rfl
@[simp] theorem State.setBay_env (s : State) (a : Fin 32) (x : Bay) : (s.setBay a x).env = s.env := rfl
@[simp] theorem State.setBay_alloc (s : State) (a : Fin 32) (x : Bay) : (s.setBay a x).alloc = s.alloc := rfl
@[simp] theorem State.setBay_pub (s : State) (a : Fin 32) (x : Bay) : (s.setBay a x).pub = s.pub := rfl
@[simp] theorem State.setBay_settings (s : State) (a : Fin 32) (x : Bay) : (s.setBay a x).settings = s.settings := rfl
@[simp] theorem State.setBay_ports (s : State) (a : Fin 32) (x : Bay) : (s.setBay a x).ports = s.ports := rfl
@[simp] theorem State.setBay_cabinets (s : State) (a : Fin 32) (x : Bay) : (s.setBay a x).cabinets = s.cabinets := rfl
@[simp] theorem State.setBay_dset (s : State) (a : Fin 32) (x : Bay) : (s.setBay a x).dset = s.dset := rfl
@[simp] theorem State.setBay_sset (s : State) (a : Fin 32) (x : Bay) : (s.setBay a x).sset = s.sset := rfl
@[simp] theorem State.setBay_pins (s : State) (a : Fin 32) (x : Bay) : (s.setBay a x).pins = s.pins := rfl
@[simp] theorem State.setBay_entry (s : State) (a : Fin 32) (x : Bay) (k : Fin 64) : (s.setBay a x).entry k = s.entry k := rfl
@[simp] theorem State.setBay_indexAt (s : State) (a : Fin 32) (x : Bay) (i : Fin 256) : (s.setBay a x).indexAt i = s.indexAt i := rfl
@[simp] theorem State.setBay_port (s : State) (a : Fin 32) (x : Bay) (p : Port) : (s.setBay a x).port p = s.port p := rfl
@[simp] theorem State.setBay_cabinet (s : State) (a : Fin 32) (x : Bay) (c : Fin 4) : (s.setBay a x).cabinet c = s.cabinet c := rfl
@[simp] theorem State.setBay_board (s : State) (a : Fin 32) (x : Bay) (b : Fin 32) : (s.setBay a x).board b = s.board b := rfl
@[simp] theorem State.setBay_pendingInc (s : State) (a : Fin 32) (x : Bay) (b : Fin 32) : (s.setBay a x).pendingInc b = s.pendingInc b := rfl
@[simp] theorem State.setBay_marked (s : State) (a : Fin 32) (x : Bay) (b : Fin 32) : (s.setBay a x).marked b = s.marked b := rfl

/-! `mapBays` -/

@[simp] theorem State.mapBays_pending (s : State) (f : Fin 32 → Bay → Bay) : (s.mapBays f).pending = s.pending := by rw [State.mapBays]
@[simp] theorem State.mapBays_resetLow (s : State) (f : Fin 32 → Bay → Bay) : (s.mapBays f).resetLow = s.resetLow := by rw [State.mapBays]
@[simp] theorem State.mapBays_straps (s : State) (f : Fin 32 → Bay → Bay) : (s.mapBays f).straps = s.straps := by rw [State.mapBays]
@[simp] theorem State.mapBays_mode (s : State) (f : Fin 32 → Bay → Bay) : (s.mapBays f).mode = s.mode := by rw [State.mapBays]
@[simp] theorem State.mapBays_pendingMode (s : State) (f : Fin 32 → Bay → Bay) : (s.mapBays f).pendingMode = s.pendingMode := by rw [State.mapBays]
@[simp] theorem State.mapBays_roster (s : State) (f : Fin 32 → Bay → Bay) : (s.mapBays f).roster = s.roster := by rw [State.mapBays]
@[simp] theorem State.mapBays_index (s : State) (f : Fin 32 → Bay → Bay) : (s.mapBays f).index = s.index := by rw [State.mapBays]
@[simp] theorem State.mapBays_rebuild (s : State) (f : Fin 32 → Bay → Bay) : (s.mapBays f).rebuild = s.rebuild := by rw [State.mapBays]
@[simp] theorem State.mapBays_clock (s : State) (f : Fin 32 → Bay → Bay) : (s.mapBays f).clock = s.clock := by rw [State.mapBays]
@[simp] theorem State.mapBays_env (s : State) (f : Fin 32 → Bay → Bay) : (s.mapBays f).env = s.env := by rw [State.mapBays]
@[simp] theorem State.mapBays_alloc (s : State) (f : Fin 32 → Bay → Bay) : (s.mapBays f).alloc = s.alloc := by rw [State.mapBays]
@[simp] theorem State.mapBays_pub (s : State) (f : Fin 32 → Bay → Bay) : (s.mapBays f).pub = s.pub := by rw [State.mapBays]
@[simp] theorem State.mapBays_settings (s : State) (f : Fin 32 → Bay → Bay) : (s.mapBays f).settings = s.settings := by rw [State.mapBays]
@[simp] theorem State.mapBays_ports (s : State) (f : Fin 32 → Bay → Bay) : (s.mapBays f).ports = s.ports := by rw [State.mapBays]
@[simp] theorem State.mapBays_cabinets (s : State) (f : Fin 32 → Bay → Bay) : (s.mapBays f).cabinets = s.cabinets := by rw [State.mapBays]
@[simp] theorem State.mapBays_dset (s : State) (f : Fin 32 → Bay → Bay) : (s.mapBays f).dset = s.dset := by rw [State.mapBays]
@[simp] theorem State.mapBays_sset (s : State) (f : Fin 32 → Bay → Bay) : (s.mapBays f).sset = s.sset := by rw [State.mapBays]
@[simp] theorem State.mapBays_pins (s : State) (f : Fin 32 → Bay → Bay) : (s.mapBays f).pins = s.pins := by rw [State.mapBays]
@[simp] theorem State.mapBays_entry (s : State) (f : Fin 32 → Bay → Bay) (k : Fin 64) : (s.mapBays f).entry k = s.entry k := by simp only [State.mapBays, State.entry]
@[simp] theorem State.mapBays_indexAt (s : State) (f : Fin 32 → Bay → Bay) (i : Fin 256) : (s.mapBays f).indexAt i = s.indexAt i := by simp only [State.mapBays, State.indexAt]
@[simp] theorem State.mapBays_port (s : State) (f : Fin 32 → Bay → Bay) (p : Port) : (s.mapBays f).port p = s.port p := by simp only [State.mapBays, State.port]
@[simp] theorem State.mapBays_cabinet (s : State) (f : Fin 32 → Bay → Bay) (c : Fin 4) : (s.mapBays f).cabinet c = s.cabinet c := by simp only [State.mapBays, State.cabinet]
@[simp] theorem State.mapBays_board (s : State) (f : Fin 32 → Bay → Bay) (b : Fin 32) : (s.mapBays f).board b = s.board b := by simp only [State.mapBays, State.board]
@[simp] theorem State.mapBays_pendingInc (s : State) (f : Fin 32 → Bay → Bay) (b : Fin 32) : (s.mapBays f).pendingInc b = s.pendingInc b := by simp only [State.mapBays, State.pendingInc]
@[simp] theorem State.mapBays_marked (s : State) (f : Fin 32 → Bay → Bay) (b : Fin 32) : (s.mapBays f).marked b = s.marked b := by simp only [State.mapBays, State.marked]

/-! `setEntry` -/

@[simp] theorem State.setEntry_pending (s : State) (j : Fin 64) (x : Option Entry) : (s.setEntry j x).pending = s.pending := rfl
@[simp] theorem State.setEntry_resetLow (s : State) (j : Fin 64) (x : Option Entry) : (s.setEntry j x).resetLow = s.resetLow := rfl
@[simp] theorem State.setEntry_straps (s : State) (j : Fin 64) (x : Option Entry) : (s.setEntry j x).straps = s.straps := rfl
@[simp] theorem State.setEntry_mode (s : State) (j : Fin 64) (x : Option Entry) : (s.setEntry j x).mode = s.mode := rfl
@[simp] theorem State.setEntry_pendingMode (s : State) (j : Fin 64) (x : Option Entry) : (s.setEntry j x).pendingMode = s.pendingMode := rfl
@[simp] theorem State.setEntry_bays (s : State) (j : Fin 64) (x : Option Entry) : (s.setEntry j x).bays = s.bays := rfl
@[simp] theorem State.setEntry_index (s : State) (j : Fin 64) (x : Option Entry) : (s.setEntry j x).index = s.index := rfl
@[simp] theorem State.setEntry_rebuild (s : State) (j : Fin 64) (x : Option Entry) : (s.setEntry j x).rebuild = s.rebuild := rfl
@[simp] theorem State.setEntry_clock (s : State) (j : Fin 64) (x : Option Entry) : (s.setEntry j x).clock = s.clock := rfl
@[simp] theorem State.setEntry_env (s : State) (j : Fin 64) (x : Option Entry) : (s.setEntry j x).env = s.env := rfl
@[simp] theorem State.setEntry_alloc (s : State) (j : Fin 64) (x : Option Entry) : (s.setEntry j x).alloc = s.alloc := rfl
@[simp] theorem State.setEntry_pub (s : State) (j : Fin 64) (x : Option Entry) : (s.setEntry j x).pub = s.pub := rfl
@[simp] theorem State.setEntry_settings (s : State) (j : Fin 64) (x : Option Entry) : (s.setEntry j x).settings = s.settings := rfl
@[simp] theorem State.setEntry_ports (s : State) (j : Fin 64) (x : Option Entry) : (s.setEntry j x).ports = s.ports := rfl
@[simp] theorem State.setEntry_cabinets (s : State) (j : Fin 64) (x : Option Entry) : (s.setEntry j x).cabinets = s.cabinets := rfl
@[simp] theorem State.setEntry_dset (s : State) (j : Fin 64) (x : Option Entry) : (s.setEntry j x).dset = s.dset := rfl
@[simp] theorem State.setEntry_sset (s : State) (j : Fin 64) (x : Option Entry) : (s.setEntry j x).sset = s.sset := rfl
@[simp] theorem State.setEntry_pins (s : State) (j : Fin 64) (x : Option Entry) : (s.setEntry j x).pins = s.pins := rfl
@[simp] theorem State.setEntry_bay (s : State) (j : Fin 64) (x : Option Entry) (b : Fin 32) : (s.setEntry j x).bay b = s.bay b := rfl
@[simp] theorem State.setEntry_indexAt (s : State) (j : Fin 64) (x : Option Entry) (i : Fin 256) : (s.setEntry j x).indexAt i = s.indexAt i := rfl
@[simp] theorem State.setEntry_port (s : State) (j : Fin 64) (x : Option Entry) (p : Port) : (s.setEntry j x).port p = s.port p := rfl
@[simp] theorem State.setEntry_cabinet (s : State) (j : Fin 64) (x : Option Entry) (c : Fin 4) : (s.setEntry j x).cabinet c = s.cabinet c := rfl
@[simp] theorem State.setEntry_board (s : State) (j : Fin 64) (x : Option Entry) (b : Fin 32) : (s.setEntry j x).board b = s.board b := rfl
@[simp] theorem State.setEntry_pendingInc (s : State) (j : Fin 64) (x : Option Entry) (b : Fin 32) : (s.setEntry j x).pendingInc b = s.pendingInc b := rfl
@[simp] theorem State.setEntry_marked (s : State) (j : Fin 64) (x : Option Entry) (b : Fin 32) : (s.setEntry j x).marked b = s.marked b := rfl

/-! `mapEntries` -/

@[simp] theorem State.mapEntries_pending (s : State) (f : Entry → Entry) : (s.mapEntries f).pending = s.pending := by rw [State.mapEntries]
@[simp] theorem State.mapEntries_resetLow (s : State) (f : Entry → Entry) : (s.mapEntries f).resetLow = s.resetLow := by rw [State.mapEntries]
@[simp] theorem State.mapEntries_straps (s : State) (f : Entry → Entry) : (s.mapEntries f).straps = s.straps := by rw [State.mapEntries]
@[simp] theorem State.mapEntries_mode (s : State) (f : Entry → Entry) : (s.mapEntries f).mode = s.mode := by rw [State.mapEntries]
@[simp] theorem State.mapEntries_pendingMode (s : State) (f : Entry → Entry) : (s.mapEntries f).pendingMode = s.pendingMode := by rw [State.mapEntries]
@[simp] theorem State.mapEntries_bays (s : State) (f : Entry → Entry) : (s.mapEntries f).bays = s.bays := by rw [State.mapEntries]
@[simp] theorem State.mapEntries_index (s : State) (f : Entry → Entry) : (s.mapEntries f).index = s.index := by rw [State.mapEntries]
@[simp] theorem State.mapEntries_rebuild (s : State) (f : Entry → Entry) : (s.mapEntries f).rebuild = s.rebuild := by rw [State.mapEntries]
@[simp] theorem State.mapEntries_clock (s : State) (f : Entry → Entry) : (s.mapEntries f).clock = s.clock := by rw [State.mapEntries]
@[simp] theorem State.mapEntries_env (s : State) (f : Entry → Entry) : (s.mapEntries f).env = s.env := by rw [State.mapEntries]
@[simp] theorem State.mapEntries_alloc (s : State) (f : Entry → Entry) : (s.mapEntries f).alloc = s.alloc := by rw [State.mapEntries]
@[simp] theorem State.mapEntries_pub (s : State) (f : Entry → Entry) : (s.mapEntries f).pub = s.pub := by rw [State.mapEntries]
@[simp] theorem State.mapEntries_settings (s : State) (f : Entry → Entry) : (s.mapEntries f).settings = s.settings := by rw [State.mapEntries]
@[simp] theorem State.mapEntries_ports (s : State) (f : Entry → Entry) : (s.mapEntries f).ports = s.ports := by rw [State.mapEntries]
@[simp] theorem State.mapEntries_cabinets (s : State) (f : Entry → Entry) : (s.mapEntries f).cabinets = s.cabinets := by rw [State.mapEntries]
@[simp] theorem State.mapEntries_dset (s : State) (f : Entry → Entry) : (s.mapEntries f).dset = s.dset := by rw [State.mapEntries]
@[simp] theorem State.mapEntries_sset (s : State) (f : Entry → Entry) : (s.mapEntries f).sset = s.sset := by rw [State.mapEntries]
@[simp] theorem State.mapEntries_pins (s : State) (f : Entry → Entry) : (s.mapEntries f).pins = s.pins := by rw [State.mapEntries]
@[simp] theorem State.mapEntries_bay (s : State) (f : Entry → Entry) (b : Fin 32) : (s.mapEntries f).bay b = s.bay b := by simp only [State.mapEntries, State.bay]
@[simp] theorem State.mapEntries_indexAt (s : State) (f : Entry → Entry) (i : Fin 256) : (s.mapEntries f).indexAt i = s.indexAt i := by simp only [State.mapEntries, State.indexAt]
@[simp] theorem State.mapEntries_port (s : State) (f : Entry → Entry) (p : Port) : (s.mapEntries f).port p = s.port p := by simp only [State.mapEntries, State.port]
@[simp] theorem State.mapEntries_cabinet (s : State) (f : Entry → Entry) (c : Fin 4) : (s.mapEntries f).cabinet c = s.cabinet c := by simp only [State.mapEntries, State.cabinet]
@[simp] theorem State.mapEntries_board (s : State) (f : Entry → Entry) (b : Fin 32) : (s.mapEntries f).board b = s.board b := by simp only [State.mapEntries, State.board]
@[simp] theorem State.mapEntries_pendingInc (s : State) (f : Entry → Entry) (b : Fin 32) : (s.mapEntries f).pendingInc b = s.pendingInc b := by simp only [State.mapEntries, State.pendingInc]
@[simp] theorem State.mapEntries_marked (s : State) (f : Entry → Entry) (b : Fin 32) : (s.mapEntries f).marked b = s.marked b := by simp only [State.mapEntries, State.marked]

/-! `setIndex` -/

@[simp] theorem State.setIndex_pending (s : State) (j : Fin 256) (x : Option (Fin 64)) : (s.setIndex j x).pending = s.pending := rfl
@[simp] theorem State.setIndex_resetLow (s : State) (j : Fin 256) (x : Option (Fin 64)) : (s.setIndex j x).resetLow = s.resetLow := rfl
@[simp] theorem State.setIndex_straps (s : State) (j : Fin 256) (x : Option (Fin 64)) : (s.setIndex j x).straps = s.straps := rfl
@[simp] theorem State.setIndex_mode (s : State) (j : Fin 256) (x : Option (Fin 64)) : (s.setIndex j x).mode = s.mode := rfl
@[simp] theorem State.setIndex_pendingMode (s : State) (j : Fin 256) (x : Option (Fin 64)) : (s.setIndex j x).pendingMode = s.pendingMode := rfl
@[simp] theorem State.setIndex_bays (s : State) (j : Fin 256) (x : Option (Fin 64)) : (s.setIndex j x).bays = s.bays := rfl
@[simp] theorem State.setIndex_roster (s : State) (j : Fin 256) (x : Option (Fin 64)) : (s.setIndex j x).roster = s.roster := rfl
@[simp] theorem State.setIndex_rebuild (s : State) (j : Fin 256) (x : Option (Fin 64)) : (s.setIndex j x).rebuild = s.rebuild := rfl
@[simp] theorem State.setIndex_clock (s : State) (j : Fin 256) (x : Option (Fin 64)) : (s.setIndex j x).clock = s.clock := rfl
@[simp] theorem State.setIndex_env (s : State) (j : Fin 256) (x : Option (Fin 64)) : (s.setIndex j x).env = s.env := rfl
@[simp] theorem State.setIndex_alloc (s : State) (j : Fin 256) (x : Option (Fin 64)) : (s.setIndex j x).alloc = s.alloc := rfl
@[simp] theorem State.setIndex_pub (s : State) (j : Fin 256) (x : Option (Fin 64)) : (s.setIndex j x).pub = s.pub := rfl
@[simp] theorem State.setIndex_settings (s : State) (j : Fin 256) (x : Option (Fin 64)) : (s.setIndex j x).settings = s.settings := rfl
@[simp] theorem State.setIndex_ports (s : State) (j : Fin 256) (x : Option (Fin 64)) : (s.setIndex j x).ports = s.ports := rfl
@[simp] theorem State.setIndex_cabinets (s : State) (j : Fin 256) (x : Option (Fin 64)) : (s.setIndex j x).cabinets = s.cabinets := rfl
@[simp] theorem State.setIndex_dset (s : State) (j : Fin 256) (x : Option (Fin 64)) : (s.setIndex j x).dset = s.dset := rfl
@[simp] theorem State.setIndex_sset (s : State) (j : Fin 256) (x : Option (Fin 64)) : (s.setIndex j x).sset = s.sset := rfl
@[simp] theorem State.setIndex_pins (s : State) (j : Fin 256) (x : Option (Fin 64)) : (s.setIndex j x).pins = s.pins := rfl
@[simp] theorem State.setIndex_index_window (s : State) (j : Fin 256) (x : Option (Fin 64)) : (s.setIndex j x).index.window = s.index.window := rfl
@[simp] theorem State.setIndex_bay (s : State) (j : Fin 256) (x : Option (Fin 64)) (b : Fin 32) : (s.setIndex j x).bay b = s.bay b := rfl
@[simp] theorem State.setIndex_entry (s : State) (j : Fin 256) (x : Option (Fin 64)) (k : Fin 64) : (s.setIndex j x).entry k = s.entry k := rfl
@[simp] theorem State.setIndex_port (s : State) (j : Fin 256) (x : Option (Fin 64)) (p : Port) : (s.setIndex j x).port p = s.port p := rfl
@[simp] theorem State.setIndex_cabinet (s : State) (j : Fin 256) (x : Option (Fin 64)) (c : Fin 4) : (s.setIndex j x).cabinet c = s.cabinet c := rfl
@[simp] theorem State.setIndex_board (s : State) (j : Fin 256) (x : Option (Fin 64)) (b : Fin 32) : (s.setIndex j x).board b = s.board b := rfl
@[simp] theorem State.setIndex_pendingInc (s : State) (j : Fin 256) (x : Option (Fin 64)) (b : Fin 32) : (s.setIndex j x).pendingInc b = s.pendingInc b := rfl
@[simp] theorem State.setIndex_marked (s : State) (j : Fin 256) (x : Option (Fin 64)) (b : Fin 32) : (s.setIndex j x).marked b = s.marked b := rfl

/-! `setPort` -/

@[simp] theorem State.setPort_pending (s : State) (q : Port) (x : LinkPort) : (s.setPort q x).pending = s.pending := rfl
@[simp] theorem State.setPort_resetLow (s : State) (q : Port) (x : LinkPort) : (s.setPort q x).resetLow = s.resetLow := rfl
@[simp] theorem State.setPort_straps (s : State) (q : Port) (x : LinkPort) : (s.setPort q x).straps = s.straps := rfl
@[simp] theorem State.setPort_mode (s : State) (q : Port) (x : LinkPort) : (s.setPort q x).mode = s.mode := rfl
@[simp] theorem State.setPort_pendingMode (s : State) (q : Port) (x : LinkPort) : (s.setPort q x).pendingMode = s.pendingMode := rfl
@[simp] theorem State.setPort_bays (s : State) (q : Port) (x : LinkPort) : (s.setPort q x).bays = s.bays := rfl
@[simp] theorem State.setPort_roster (s : State) (q : Port) (x : LinkPort) : (s.setPort q x).roster = s.roster := rfl
@[simp] theorem State.setPort_index (s : State) (q : Port) (x : LinkPort) : (s.setPort q x).index = s.index := rfl
@[simp] theorem State.setPort_rebuild (s : State) (q : Port) (x : LinkPort) : (s.setPort q x).rebuild = s.rebuild := rfl
@[simp] theorem State.setPort_clock (s : State) (q : Port) (x : LinkPort) : (s.setPort q x).clock = s.clock := rfl
@[simp] theorem State.setPort_env (s : State) (q : Port) (x : LinkPort) : (s.setPort q x).env = s.env := rfl
@[simp] theorem State.setPort_alloc (s : State) (q : Port) (x : LinkPort) : (s.setPort q x).alloc = s.alloc := rfl
@[simp] theorem State.setPort_pub (s : State) (q : Port) (x : LinkPort) : (s.setPort q x).pub = s.pub := rfl
@[simp] theorem State.setPort_settings (s : State) (q : Port) (x : LinkPort) : (s.setPort q x).settings = s.settings := rfl
@[simp] theorem State.setPort_cabinets (s : State) (q : Port) (x : LinkPort) : (s.setPort q x).cabinets = s.cabinets := rfl
@[simp] theorem State.setPort_dset (s : State) (q : Port) (x : LinkPort) : (s.setPort q x).dset = s.dset := rfl
@[simp] theorem State.setPort_sset (s : State) (q : Port) (x : LinkPort) : (s.setPort q x).sset = s.sset := rfl
@[simp] theorem State.setPort_pins (s : State) (q : Port) (x : LinkPort) : (s.setPort q x).pins = s.pins := rfl
@[simp] theorem State.setPort_bay (s : State) (q : Port) (x : LinkPort) (b : Fin 32) : (s.setPort q x).bay b = s.bay b := rfl
@[simp] theorem State.setPort_entry (s : State) (q : Port) (x : LinkPort) (k : Fin 64) : (s.setPort q x).entry k = s.entry k := rfl
@[simp] theorem State.setPort_indexAt (s : State) (q : Port) (x : LinkPort) (i : Fin 256) : (s.setPort q x).indexAt i = s.indexAt i := rfl
@[simp] theorem State.setPort_cabinet (s : State) (q : Port) (x : LinkPort) (c : Fin 4) : (s.setPort q x).cabinet c = s.cabinet c := rfl
@[simp] theorem State.setPort_board (s : State) (q : Port) (x : LinkPort) (b : Fin 32) : (s.setPort q x).board b = s.board b := rfl
@[simp] theorem State.setPort_pendingInc (s : State) (q : Port) (x : LinkPort) (b : Fin 32) : (s.setPort q x).pendingInc b = s.pendingInc b := rfl
@[simp] theorem State.setPort_marked (s : State) (q : Port) (x : LinkPort) (b : Fin 32) : (s.setPort q x).marked b = s.marked b := rfl

/-! `mapPorts` -/

@[simp] theorem State.mapPorts_pending (s : State) (f : LinkPort → LinkPort) : (s.mapPorts f).pending = s.pending := rfl
@[simp] theorem State.mapPorts_resetLow (s : State) (f : LinkPort → LinkPort) : (s.mapPorts f).resetLow = s.resetLow := rfl
@[simp] theorem State.mapPorts_straps (s : State) (f : LinkPort → LinkPort) : (s.mapPorts f).straps = s.straps := rfl
@[simp] theorem State.mapPorts_mode (s : State) (f : LinkPort → LinkPort) : (s.mapPorts f).mode = s.mode := rfl
@[simp] theorem State.mapPorts_pendingMode (s : State) (f : LinkPort → LinkPort) : (s.mapPorts f).pendingMode = s.pendingMode := rfl
@[simp] theorem State.mapPorts_bays (s : State) (f : LinkPort → LinkPort) : (s.mapPorts f).bays = s.bays := rfl
@[simp] theorem State.mapPorts_roster (s : State) (f : LinkPort → LinkPort) : (s.mapPorts f).roster = s.roster := rfl
@[simp] theorem State.mapPorts_index (s : State) (f : LinkPort → LinkPort) : (s.mapPorts f).index = s.index := rfl
@[simp] theorem State.mapPorts_rebuild (s : State) (f : LinkPort → LinkPort) : (s.mapPorts f).rebuild = s.rebuild := rfl
@[simp] theorem State.mapPorts_clock (s : State) (f : LinkPort → LinkPort) : (s.mapPorts f).clock = s.clock := rfl
@[simp] theorem State.mapPorts_env (s : State) (f : LinkPort → LinkPort) : (s.mapPorts f).env = s.env := rfl
@[simp] theorem State.mapPorts_alloc (s : State) (f : LinkPort → LinkPort) : (s.mapPorts f).alloc = s.alloc := rfl
@[simp] theorem State.mapPorts_pub (s : State) (f : LinkPort → LinkPort) : (s.mapPorts f).pub = s.pub := rfl
@[simp] theorem State.mapPorts_settings (s : State) (f : LinkPort → LinkPort) : (s.mapPorts f).settings = s.settings := rfl
@[simp] theorem State.mapPorts_cabinets (s : State) (f : LinkPort → LinkPort) : (s.mapPorts f).cabinets = s.cabinets := rfl
@[simp] theorem State.mapPorts_dset (s : State) (f : LinkPort → LinkPort) : (s.mapPorts f).dset = s.dset := rfl
@[simp] theorem State.mapPorts_sset (s : State) (f : LinkPort → LinkPort) : (s.mapPorts f).sset = s.sset := rfl
@[simp] theorem State.mapPorts_pins (s : State) (f : LinkPort → LinkPort) : (s.mapPorts f).pins = s.pins := rfl
@[simp] theorem State.mapPorts_bay (s : State) (f : LinkPort → LinkPort) (b : Fin 32) : (s.mapPorts f).bay b = s.bay b := rfl
@[simp] theorem State.mapPorts_entry (s : State) (f : LinkPort → LinkPort) (k : Fin 64) : (s.mapPorts f).entry k = s.entry k := rfl
@[simp] theorem State.mapPorts_indexAt (s : State) (f : LinkPort → LinkPort) (i : Fin 256) : (s.mapPorts f).indexAt i = s.indexAt i := rfl
@[simp] theorem State.mapPorts_cabinet (s : State) (f : LinkPort → LinkPort) (c : Fin 4) : (s.mapPorts f).cabinet c = s.cabinet c := rfl
@[simp] theorem State.mapPorts_board (s : State) (f : LinkPort → LinkPort) (b : Fin 32) : (s.mapPorts f).board b = s.board b := rfl
@[simp] theorem State.mapPorts_pendingInc (s : State) (f : LinkPort → LinkPort) (b : Fin 32) : (s.mapPorts f).pendingInc b = s.pendingInc b := rfl
@[simp] theorem State.mapPorts_marked (s : State) (f : LinkPort → LinkPort) (b : Fin 32) : (s.mapPorts f).marked b = s.marked b := rfl

/-! `setCabinet` -/

@[simp] theorem State.setCabinet_pending (s : State) (d : Fin 4) (x : Cabinet) : (s.setCabinet d x).pending = s.pending := rfl
@[simp] theorem State.setCabinet_resetLow (s : State) (d : Fin 4) (x : Cabinet) : (s.setCabinet d x).resetLow = s.resetLow := rfl
@[simp] theorem State.setCabinet_straps (s : State) (d : Fin 4) (x : Cabinet) : (s.setCabinet d x).straps = s.straps := rfl
@[simp] theorem State.setCabinet_mode (s : State) (d : Fin 4) (x : Cabinet) : (s.setCabinet d x).mode = s.mode := rfl
@[simp] theorem State.setCabinet_pendingMode (s : State) (d : Fin 4) (x : Cabinet) : (s.setCabinet d x).pendingMode = s.pendingMode := rfl
@[simp] theorem State.setCabinet_bays (s : State) (d : Fin 4) (x : Cabinet) : (s.setCabinet d x).bays = s.bays := rfl
@[simp] theorem State.setCabinet_roster (s : State) (d : Fin 4) (x : Cabinet) : (s.setCabinet d x).roster = s.roster := rfl
@[simp] theorem State.setCabinet_index (s : State) (d : Fin 4) (x : Cabinet) : (s.setCabinet d x).index = s.index := rfl
@[simp] theorem State.setCabinet_rebuild (s : State) (d : Fin 4) (x : Cabinet) : (s.setCabinet d x).rebuild = s.rebuild := rfl
@[simp] theorem State.setCabinet_clock (s : State) (d : Fin 4) (x : Cabinet) : (s.setCabinet d x).clock = s.clock := rfl
@[simp] theorem State.setCabinet_env (s : State) (d : Fin 4) (x : Cabinet) : (s.setCabinet d x).env = s.env := rfl
@[simp] theorem State.setCabinet_alloc (s : State) (d : Fin 4) (x : Cabinet) : (s.setCabinet d x).alloc = s.alloc := rfl
@[simp] theorem State.setCabinet_pub (s : State) (d : Fin 4) (x : Cabinet) : (s.setCabinet d x).pub = s.pub := rfl
@[simp] theorem State.setCabinet_settings (s : State) (d : Fin 4) (x : Cabinet) : (s.setCabinet d x).settings = s.settings := rfl
@[simp] theorem State.setCabinet_ports (s : State) (d : Fin 4) (x : Cabinet) : (s.setCabinet d x).ports = s.ports := rfl
@[simp] theorem State.setCabinet_dset (s : State) (d : Fin 4) (x : Cabinet) : (s.setCabinet d x).dset = s.dset := rfl
@[simp] theorem State.setCabinet_sset (s : State) (d : Fin 4) (x : Cabinet) : (s.setCabinet d x).sset = s.sset := rfl
@[simp] theorem State.setCabinet_pins (s : State) (d : Fin 4) (x : Cabinet) : (s.setCabinet d x).pins = s.pins := rfl
@[simp] theorem State.setCabinet_bay (s : State) (d : Fin 4) (x : Cabinet) (b : Fin 32) : (s.setCabinet d x).bay b = s.bay b := rfl
@[simp] theorem State.setCabinet_entry (s : State) (d : Fin 4) (x : Cabinet) (k : Fin 64) : (s.setCabinet d x).entry k = s.entry k := rfl
@[simp] theorem State.setCabinet_indexAt (s : State) (d : Fin 4) (x : Cabinet) (i : Fin 256) : (s.setCabinet d x).indexAt i = s.indexAt i := rfl
@[simp] theorem State.setCabinet_port (s : State) (d : Fin 4) (x : Cabinet) (p : Port) : (s.setCabinet d x).port p = s.port p := rfl
@[simp] theorem State.setCabinet_board (s : State) (d : Fin 4) (x : Cabinet) (b : Fin 32) : (s.setCabinet d x).board b = s.board b := rfl
@[simp] theorem State.setCabinet_pendingInc (s : State) (d : Fin 4) (x : Cabinet) (b : Fin 32) : (s.setCabinet d x).pendingInc b = s.pendingInc b := rfl
@[simp] theorem State.setCabinet_marked (s : State) (d : Fin 4) (x : Cabinet) (b : Fin 32) : (s.setCabinet d x).marked b = s.marked b := rfl

/-! `mapCabinets` -/

@[simp] theorem State.mapCabinets_pending (s : State) (f : Fin 4 → Cabinet → Cabinet) : (s.mapCabinets f).pending = s.pending := rfl
@[simp] theorem State.mapCabinets_resetLow (s : State) (f : Fin 4 → Cabinet → Cabinet) : (s.mapCabinets f).resetLow = s.resetLow := rfl
@[simp] theorem State.mapCabinets_straps (s : State) (f : Fin 4 → Cabinet → Cabinet) : (s.mapCabinets f).straps = s.straps := rfl
@[simp] theorem State.mapCabinets_mode (s : State) (f : Fin 4 → Cabinet → Cabinet) : (s.mapCabinets f).mode = s.mode := rfl
@[simp] theorem State.mapCabinets_pendingMode (s : State) (f : Fin 4 → Cabinet → Cabinet) : (s.mapCabinets f).pendingMode = s.pendingMode := rfl
@[simp] theorem State.mapCabinets_bays (s : State) (f : Fin 4 → Cabinet → Cabinet) : (s.mapCabinets f).bays = s.bays := rfl
@[simp] theorem State.mapCabinets_roster (s : State) (f : Fin 4 → Cabinet → Cabinet) : (s.mapCabinets f).roster = s.roster := rfl
@[simp] theorem State.mapCabinets_index (s : State) (f : Fin 4 → Cabinet → Cabinet) : (s.mapCabinets f).index = s.index := rfl
@[simp] theorem State.mapCabinets_rebuild (s : State) (f : Fin 4 → Cabinet → Cabinet) : (s.mapCabinets f).rebuild = s.rebuild := rfl
@[simp] theorem State.mapCabinets_clock (s : State) (f : Fin 4 → Cabinet → Cabinet) : (s.mapCabinets f).clock = s.clock := rfl
@[simp] theorem State.mapCabinets_env (s : State) (f : Fin 4 → Cabinet → Cabinet) : (s.mapCabinets f).env = s.env := rfl
@[simp] theorem State.mapCabinets_alloc (s : State) (f : Fin 4 → Cabinet → Cabinet) : (s.mapCabinets f).alloc = s.alloc := rfl
@[simp] theorem State.mapCabinets_pub (s : State) (f : Fin 4 → Cabinet → Cabinet) : (s.mapCabinets f).pub = s.pub := rfl
@[simp] theorem State.mapCabinets_settings (s : State) (f : Fin 4 → Cabinet → Cabinet) : (s.mapCabinets f).settings = s.settings := rfl
@[simp] theorem State.mapCabinets_ports (s : State) (f : Fin 4 → Cabinet → Cabinet) : (s.mapCabinets f).ports = s.ports := rfl
@[simp] theorem State.mapCabinets_dset (s : State) (f : Fin 4 → Cabinet → Cabinet) : (s.mapCabinets f).dset = s.dset := rfl
@[simp] theorem State.mapCabinets_sset (s : State) (f : Fin 4 → Cabinet → Cabinet) : (s.mapCabinets f).sset = s.sset := rfl
@[simp] theorem State.mapCabinets_pins (s : State) (f : Fin 4 → Cabinet → Cabinet) : (s.mapCabinets f).pins = s.pins := rfl
@[simp] theorem State.mapCabinets_bay (s : State) (f : Fin 4 → Cabinet → Cabinet) (b : Fin 32) : (s.mapCabinets f).bay b = s.bay b := rfl
@[simp] theorem State.mapCabinets_entry (s : State) (f : Fin 4 → Cabinet → Cabinet) (k : Fin 64) : (s.mapCabinets f).entry k = s.entry k := rfl
@[simp] theorem State.mapCabinets_indexAt (s : State) (f : Fin 4 → Cabinet → Cabinet) (i : Fin 256) : (s.mapCabinets f).indexAt i = s.indexAt i := rfl
@[simp] theorem State.mapCabinets_port (s : State) (f : Fin 4 → Cabinet → Cabinet) (p : Port) : (s.mapCabinets f).port p = s.port p := rfl
@[simp] theorem State.mapCabinets_board (s : State) (f : Fin 4 → Cabinet → Cabinet) (b : Fin 32) : (s.mapCabinets f).board b = s.board b := rfl
@[simp] theorem State.mapCabinets_pendingInc (s : State) (f : Fin 4 → Cabinet → Cabinet) (b : Fin 32) : (s.mapCabinets f).pendingInc b = s.pendingInc b := rfl
@[simp] theorem State.mapCabinets_marked (s : State) (f : Fin 4 → Cabinet → Cabinet) (b : Fin 32) : (s.mapCabinets f).marked b = s.marked b := rfl

/-! `setBoard` -/

@[simp] theorem State.setBoard_pending (s : State) (a : Fin 32) (x : Option (Nat × Seq)) : (s.setBoard a x).pending = s.pending := rfl
@[simp] theorem State.setBoard_resetLow (s : State) (a : Fin 32) (x : Option (Nat × Seq)) : (s.setBoard a x).resetLow = s.resetLow := rfl
@[simp] theorem State.setBoard_straps (s : State) (a : Fin 32) (x : Option (Nat × Seq)) : (s.setBoard a x).straps = s.straps := rfl
@[simp] theorem State.setBoard_mode (s : State) (a : Fin 32) (x : Option (Nat × Seq)) : (s.setBoard a x).mode = s.mode := rfl
@[simp] theorem State.setBoard_pendingMode (s : State) (a : Fin 32) (x : Option (Nat × Seq)) : (s.setBoard a x).pendingMode = s.pendingMode := rfl
@[simp] theorem State.setBoard_bays (s : State) (a : Fin 32) (x : Option (Nat × Seq)) : (s.setBoard a x).bays = s.bays := rfl
@[simp] theorem State.setBoard_roster (s : State) (a : Fin 32) (x : Option (Nat × Seq)) : (s.setBoard a x).roster = s.roster := rfl
@[simp] theorem State.setBoard_index (s : State) (a : Fin 32) (x : Option (Nat × Seq)) : (s.setBoard a x).index = s.index := rfl
@[simp] theorem State.setBoard_rebuild (s : State) (a : Fin 32) (x : Option (Nat × Seq)) : (s.setBoard a x).rebuild = s.rebuild := rfl
@[simp] theorem State.setBoard_clock (s : State) (a : Fin 32) (x : Option (Nat × Seq)) : (s.setBoard a x).clock = s.clock := rfl
@[simp] theorem State.setBoard_env (s : State) (a : Fin 32) (x : Option (Nat × Seq)) : (s.setBoard a x).env = s.env := rfl
@[simp] theorem State.setBoard_alloc (s : State) (a : Fin 32) (x : Option (Nat × Seq)) : (s.setBoard a x).alloc = s.alloc := rfl
@[simp] theorem State.setBoard_settings (s : State) (a : Fin 32) (x : Option (Nat × Seq)) : (s.setBoard a x).settings = s.settings := rfl
@[simp] theorem State.setBoard_ports (s : State) (a : Fin 32) (x : Option (Nat × Seq)) : (s.setBoard a x).ports = s.ports := rfl
@[simp] theorem State.setBoard_cabinets (s : State) (a : Fin 32) (x : Option (Nat × Seq)) : (s.setBoard a x).cabinets = s.cabinets := rfl
@[simp] theorem State.setBoard_dset (s : State) (a : Fin 32) (x : Option (Nat × Seq)) : (s.setBoard a x).dset = s.dset := rfl
@[simp] theorem State.setBoard_sset (s : State) (a : Fin 32) (x : Option (Nat × Seq)) : (s.setBoard a x).sset = s.sset := rfl
@[simp] theorem State.setBoard_pins (s : State) (a : Fin 32) (x : Option (Nat × Seq)) : (s.setBoard a x).pins = s.pins := rfl
@[simp] theorem State.setBoard_pub_pending (s : State) (a : Fin 32) (x : Option (Nat × Seq)) : (s.setBoard a x).pub.pending = s.pub.pending := rfl
@[simp] theorem State.setBoard_pub_used (s : State) (a : Fin 32) (x : Option (Nat × Seq)) : (s.setBoard a x).pub.used = s.pub.used := rfl
@[simp] theorem State.setBoard_pub_slotTimes (s : State) (a : Fin 32) (x : Option (Nat × Seq)) : (s.setBoard a x).pub.slotTimes = s.pub.slotTimes := rfl
@[simp] theorem State.setBoard_bay (s : State) (a : Fin 32) (x : Option (Nat × Seq)) (b : Fin 32) : (s.setBoard a x).bay b = s.bay b := rfl
@[simp] theorem State.setBoard_entry (s : State) (a : Fin 32) (x : Option (Nat × Seq)) (k : Fin 64) : (s.setBoard a x).entry k = s.entry k := rfl
@[simp] theorem State.setBoard_indexAt (s : State) (a : Fin 32) (x : Option (Nat × Seq)) (i : Fin 256) : (s.setBoard a x).indexAt i = s.indexAt i := rfl
@[simp] theorem State.setBoard_port (s : State) (a : Fin 32) (x : Option (Nat × Seq)) (p : Port) : (s.setBoard a x).port p = s.port p := rfl
@[simp] theorem State.setBoard_cabinet (s : State) (a : Fin 32) (x : Option (Nat × Seq)) (c : Fin 4) : (s.setBoard a x).cabinet c = s.cabinet c := rfl
@[simp] theorem State.setBoard_pendingInc (s : State) (a : Fin 32) (x : Option (Nat × Seq)) (b : Fin 32) : (s.setBoard a x).pendingInc b = s.pendingInc b := rfl
@[simp] theorem State.setBoard_marked (s : State) (a : Fin 32) (x : Option (Nat × Seq)) (b : Fin 32) : (s.setBoard a x).marked b = s.marked b := rfl

/-! `setPendingInc` -/

@[simp] theorem State.setPendingInc_pending (s : State) (a : Fin 32) (x : Option Nat) : (s.setPendingInc a x).pending = s.pending := rfl
@[simp] theorem State.setPendingInc_resetLow (s : State) (a : Fin 32) (x : Option Nat) : (s.setPendingInc a x).resetLow = s.resetLow := rfl
@[simp] theorem State.setPendingInc_straps (s : State) (a : Fin 32) (x : Option Nat) : (s.setPendingInc a x).straps = s.straps := rfl
@[simp] theorem State.setPendingInc_mode (s : State) (a : Fin 32) (x : Option Nat) : (s.setPendingInc a x).mode = s.mode := rfl
@[simp] theorem State.setPendingInc_pendingMode (s : State) (a : Fin 32) (x : Option Nat) : (s.setPendingInc a x).pendingMode = s.pendingMode := rfl
@[simp] theorem State.setPendingInc_bays (s : State) (a : Fin 32) (x : Option Nat) : (s.setPendingInc a x).bays = s.bays := rfl
@[simp] theorem State.setPendingInc_roster (s : State) (a : Fin 32) (x : Option Nat) : (s.setPendingInc a x).roster = s.roster := rfl
@[simp] theorem State.setPendingInc_index (s : State) (a : Fin 32) (x : Option Nat) : (s.setPendingInc a x).index = s.index := rfl
@[simp] theorem State.setPendingInc_rebuild (s : State) (a : Fin 32) (x : Option Nat) : (s.setPendingInc a x).rebuild = s.rebuild := rfl
@[simp] theorem State.setPendingInc_clock (s : State) (a : Fin 32) (x : Option Nat) : (s.setPendingInc a x).clock = s.clock := rfl
@[simp] theorem State.setPendingInc_env (s : State) (a : Fin 32) (x : Option Nat) : (s.setPendingInc a x).env = s.env := rfl
@[simp] theorem State.setPendingInc_alloc (s : State) (a : Fin 32) (x : Option Nat) : (s.setPendingInc a x).alloc = s.alloc := rfl
@[simp] theorem State.setPendingInc_settings (s : State) (a : Fin 32) (x : Option Nat) : (s.setPendingInc a x).settings = s.settings := rfl
@[simp] theorem State.setPendingInc_ports (s : State) (a : Fin 32) (x : Option Nat) : (s.setPendingInc a x).ports = s.ports := rfl
@[simp] theorem State.setPendingInc_cabinets (s : State) (a : Fin 32) (x : Option Nat) : (s.setPendingInc a x).cabinets = s.cabinets := rfl
@[simp] theorem State.setPendingInc_dset (s : State) (a : Fin 32) (x : Option Nat) : (s.setPendingInc a x).dset = s.dset := rfl
@[simp] theorem State.setPendingInc_sset (s : State) (a : Fin 32) (x : Option Nat) : (s.setPendingInc a x).sset = s.sset := rfl
@[simp] theorem State.setPendingInc_pins (s : State) (a : Fin 32) (x : Option Nat) : (s.setPendingInc a x).pins = s.pins := rfl
@[simp] theorem State.setPendingInc_pub_board (s : State) (a : Fin 32) (x : Option Nat) : (s.setPendingInc a x).pub.board = s.pub.board := rfl
@[simp] theorem State.setPendingInc_pub_used (s : State) (a : Fin 32) (x : Option Nat) : (s.setPendingInc a x).pub.used = s.pub.used := rfl
@[simp] theorem State.setPendingInc_pub_slotTimes (s : State) (a : Fin 32) (x : Option Nat) : (s.setPendingInc a x).pub.slotTimes = s.pub.slotTimes := rfl
@[simp] theorem State.setPendingInc_bay (s : State) (a : Fin 32) (x : Option Nat) (b : Fin 32) : (s.setPendingInc a x).bay b = s.bay b := rfl
@[simp] theorem State.setPendingInc_entry (s : State) (a : Fin 32) (x : Option Nat) (k : Fin 64) : (s.setPendingInc a x).entry k = s.entry k := rfl
@[simp] theorem State.setPendingInc_indexAt (s : State) (a : Fin 32) (x : Option Nat) (i : Fin 256) : (s.setPendingInc a x).indexAt i = s.indexAt i := rfl
@[simp] theorem State.setPendingInc_port (s : State) (a : Fin 32) (x : Option Nat) (p : Port) : (s.setPendingInc a x).port p = s.port p := rfl
@[simp] theorem State.setPendingInc_cabinet (s : State) (a : Fin 32) (x : Option Nat) (c : Fin 4) : (s.setPendingInc a x).cabinet c = s.cabinet c := rfl
@[simp] theorem State.setPendingInc_board (s : State) (a : Fin 32) (x : Option Nat) (b : Fin 32) : (s.setPendingInc a x).board b = s.board b := rfl
@[simp] theorem State.setPendingInc_marked (s : State) (a : Fin 32) (x : Option Nat) (b : Fin 32) : (s.setPendingInc a x).marked b = s.marked b := rfl

/-! `dropIncreases` -/

@[simp] theorem State.dropIncreases_pending (s : State) : (s.dropIncreases).pending = s.pending := rfl
@[simp] theorem State.dropIncreases_resetLow (s : State) : (s.dropIncreases).resetLow = s.resetLow := rfl
@[simp] theorem State.dropIncreases_straps (s : State) : (s.dropIncreases).straps = s.straps := rfl
@[simp] theorem State.dropIncreases_mode (s : State) : (s.dropIncreases).mode = s.mode := rfl
@[simp] theorem State.dropIncreases_pendingMode (s : State) : (s.dropIncreases).pendingMode = s.pendingMode := rfl
@[simp] theorem State.dropIncreases_bays (s : State) : (s.dropIncreases).bays = s.bays := rfl
@[simp] theorem State.dropIncreases_roster (s : State) : (s.dropIncreases).roster = s.roster := rfl
@[simp] theorem State.dropIncreases_index (s : State) : (s.dropIncreases).index = s.index := rfl
@[simp] theorem State.dropIncreases_rebuild (s : State) : (s.dropIncreases).rebuild = s.rebuild := rfl
@[simp] theorem State.dropIncreases_clock (s : State) : (s.dropIncreases).clock = s.clock := rfl
@[simp] theorem State.dropIncreases_env (s : State) : (s.dropIncreases).env = s.env := rfl
@[simp] theorem State.dropIncreases_alloc (s : State) : (s.dropIncreases).alloc = s.alloc := rfl
@[simp] theorem State.dropIncreases_settings (s : State) : (s.dropIncreases).settings = s.settings := rfl
@[simp] theorem State.dropIncreases_ports (s : State) : (s.dropIncreases).ports = s.ports := rfl
@[simp] theorem State.dropIncreases_cabinets (s : State) : (s.dropIncreases).cabinets = s.cabinets := rfl
@[simp] theorem State.dropIncreases_dset (s : State) : (s.dropIncreases).dset = s.dset := rfl
@[simp] theorem State.dropIncreases_sset (s : State) : (s.dropIncreases).sset = s.sset := rfl
@[simp] theorem State.dropIncreases_pins (s : State) : (s.dropIncreases).pins = s.pins := rfl
@[simp] theorem State.dropIncreases_pub_board (s : State) : (s.dropIncreases).pub.board = s.pub.board := rfl
@[simp] theorem State.dropIncreases_pub_used (s : State) : (s.dropIncreases).pub.used = s.pub.used := rfl
@[simp] theorem State.dropIncreases_pub_slotTimes (s : State) : (s.dropIncreases).pub.slotTimes = s.pub.slotTimes := rfl
@[simp] theorem State.dropIncreases_bay (s : State) (b : Fin 32) : (s.dropIncreases).bay b = s.bay b := rfl
@[simp] theorem State.dropIncreases_entry (s : State) (k : Fin 64) : (s.dropIncreases).entry k = s.entry k := rfl
@[simp] theorem State.dropIncreases_indexAt (s : State) (i : Fin 256) : (s.dropIncreases).indexAt i = s.indexAt i := rfl
@[simp] theorem State.dropIncreases_port (s : State) (p : Port) : (s.dropIncreases).port p = s.port p := rfl
@[simp] theorem State.dropIncreases_cabinet (s : State) (c : Fin 4) : (s.dropIncreases).cabinet c = s.cabinet c := rfl
@[simp] theorem State.dropIncreases_board (s : State) (b : Fin 32) : (s.dropIncreases).board b = s.board b := rfl
@[simp] theorem State.dropIncreases_marked (s : State) (b : Fin 32) : (s.dropIncreases).marked b = s.marked b := rfl

/-! `raiseD` -/

@[simp] theorem State.raiseD_pending (s : State) (f : DFlag) : (s.raiseD f).pending = s.pending := rfl
@[simp] theorem State.raiseD_resetLow (s : State) (f : DFlag) : (s.raiseD f).resetLow = s.resetLow := rfl
@[simp] theorem State.raiseD_straps (s : State) (f : DFlag) : (s.raiseD f).straps = s.straps := rfl
@[simp] theorem State.raiseD_mode (s : State) (f : DFlag) : (s.raiseD f).mode = s.mode := rfl
@[simp] theorem State.raiseD_pendingMode (s : State) (f : DFlag) : (s.raiseD f).pendingMode = s.pendingMode := rfl
@[simp] theorem State.raiseD_bays (s : State) (f : DFlag) : (s.raiseD f).bays = s.bays := rfl
@[simp] theorem State.raiseD_roster (s : State) (f : DFlag) : (s.raiseD f).roster = s.roster := rfl
@[simp] theorem State.raiseD_index (s : State) (f : DFlag) : (s.raiseD f).index = s.index := rfl
@[simp] theorem State.raiseD_rebuild (s : State) (f : DFlag) : (s.raiseD f).rebuild = s.rebuild := rfl
@[simp] theorem State.raiseD_clock (s : State) (f : DFlag) : (s.raiseD f).clock = s.clock := rfl
@[simp] theorem State.raiseD_env (s : State) (f : DFlag) : (s.raiseD f).env = s.env := rfl
@[simp] theorem State.raiseD_alloc (s : State) (f : DFlag) : (s.raiseD f).alloc = s.alloc := rfl
@[simp] theorem State.raiseD_pub (s : State) (f : DFlag) : (s.raiseD f).pub = s.pub := rfl
@[simp] theorem State.raiseD_settings (s : State) (f : DFlag) : (s.raiseD f).settings = s.settings := rfl
@[simp] theorem State.raiseD_ports (s : State) (f : DFlag) : (s.raiseD f).ports = s.ports := rfl
@[simp] theorem State.raiseD_cabinets (s : State) (f : DFlag) : (s.raiseD f).cabinets = s.cabinets := rfl
@[simp] theorem State.raiseD_sset (s : State) (f : DFlag) : (s.raiseD f).sset = s.sset := rfl
@[simp] theorem State.raiseD_pins (s : State) (f : DFlag) : (s.raiseD f).pins = s.pins := rfl
@[simp] theorem State.raiseD_bay (s : State) (f : DFlag) (b : Fin 32) : (s.raiseD f).bay b = s.bay b := rfl
@[simp] theorem State.raiseD_entry (s : State) (f : DFlag) (k : Fin 64) : (s.raiseD f).entry k = s.entry k := rfl
@[simp] theorem State.raiseD_indexAt (s : State) (f : DFlag) (i : Fin 256) : (s.raiseD f).indexAt i = s.indexAt i := rfl
@[simp] theorem State.raiseD_port (s : State) (f : DFlag) (p : Port) : (s.raiseD f).port p = s.port p := rfl
@[simp] theorem State.raiseD_cabinet (s : State) (f : DFlag) (c : Fin 4) : (s.raiseD f).cabinet c = s.cabinet c := rfl
@[simp] theorem State.raiseD_board (s : State) (f : DFlag) (b : Fin 32) : (s.raiseD f).board b = s.board b := rfl
@[simp] theorem State.raiseD_pendingInc (s : State) (f : DFlag) (b : Fin 32) : (s.raiseD f).pendingInc b = s.pendingInc b := rfl
@[simp] theorem State.raiseD_marked (s : State) (f : DFlag) (b : Fin 32) : (s.raiseD f).marked b = s.marked b := rfl

/-! `raiseS` -/

@[simp] theorem State.raiseS_pending (s : State) (f : SFlag) : (s.raiseS f).pending = s.pending := rfl
@[simp] theorem State.raiseS_resetLow (s : State) (f : SFlag) : (s.raiseS f).resetLow = s.resetLow := rfl
@[simp] theorem State.raiseS_straps (s : State) (f : SFlag) : (s.raiseS f).straps = s.straps := rfl
@[simp] theorem State.raiseS_mode (s : State) (f : SFlag) : (s.raiseS f).mode = s.mode := rfl
@[simp] theorem State.raiseS_pendingMode (s : State) (f : SFlag) : (s.raiseS f).pendingMode = s.pendingMode := rfl
@[simp] theorem State.raiseS_bays (s : State) (f : SFlag) : (s.raiseS f).bays = s.bays := rfl
@[simp] theorem State.raiseS_roster (s : State) (f : SFlag) : (s.raiseS f).roster = s.roster := rfl
@[simp] theorem State.raiseS_index (s : State) (f : SFlag) : (s.raiseS f).index = s.index := rfl
@[simp] theorem State.raiseS_rebuild (s : State) (f : SFlag) : (s.raiseS f).rebuild = s.rebuild := rfl
@[simp] theorem State.raiseS_clock (s : State) (f : SFlag) : (s.raiseS f).clock = s.clock := rfl
@[simp] theorem State.raiseS_env (s : State) (f : SFlag) : (s.raiseS f).env = s.env := rfl
@[simp] theorem State.raiseS_alloc (s : State) (f : SFlag) : (s.raiseS f).alloc = s.alloc := rfl
@[simp] theorem State.raiseS_pub (s : State) (f : SFlag) : (s.raiseS f).pub = s.pub := rfl
@[simp] theorem State.raiseS_settings (s : State) (f : SFlag) : (s.raiseS f).settings = s.settings := rfl
@[simp] theorem State.raiseS_ports (s : State) (f : SFlag) : (s.raiseS f).ports = s.ports := rfl
@[simp] theorem State.raiseS_cabinets (s : State) (f : SFlag) : (s.raiseS f).cabinets = s.cabinets := rfl
@[simp] theorem State.raiseS_dset (s : State) (f : SFlag) : (s.raiseS f).dset = s.dset := rfl
@[simp] theorem State.raiseS_pins (s : State) (f : SFlag) : (s.raiseS f).pins = s.pins := rfl
@[simp] theorem State.raiseS_bay (s : State) (f : SFlag) (b : Fin 32) : (s.raiseS f).bay b = s.bay b := rfl
@[simp] theorem State.raiseS_entry (s : State) (f : SFlag) (k : Fin 64) : (s.raiseS f).entry k = s.entry k := rfl
@[simp] theorem State.raiseS_indexAt (s : State) (f : SFlag) (i : Fin 256) : (s.raiseS f).indexAt i = s.indexAt i := rfl
@[simp] theorem State.raiseS_port (s : State) (f : SFlag) (p : Port) : (s.raiseS f).port p = s.port p := rfl
@[simp] theorem State.raiseS_cabinet (s : State) (f : SFlag) (c : Fin 4) : (s.raiseS f).cabinet c = s.cabinet c := rfl
@[simp] theorem State.raiseS_board (s : State) (f : SFlag) (b : Fin 32) : (s.raiseS f).board b = s.board b := rfl
@[simp] theorem State.raiseS_pendingInc (s : State) (f : SFlag) (b : Fin 32) : (s.raiseS f).pendingInc b = s.pendingInc b := rfl
@[simp] theorem State.raiseS_marked (s : State) (f : SFlag) (b : Fin 32) : (s.raiseS f).marked b = s.marked b := rfl

/-! `evalOverdue` -/

@[simp] theorem State.evalOverdue_pending (s : State) : (s.evalOverdue).pending = s.pending := rfl
@[simp] theorem State.evalOverdue_resetLow (s : State) : (s.evalOverdue).resetLow = s.resetLow := rfl
@[simp] theorem State.evalOverdue_straps (s : State) : (s.evalOverdue).straps = s.straps := rfl
@[simp] theorem State.evalOverdue_mode (s : State) : (s.evalOverdue).mode = s.mode := rfl
@[simp] theorem State.evalOverdue_pendingMode (s : State) : (s.evalOverdue).pendingMode = s.pendingMode := rfl
@[simp] theorem State.evalOverdue_bays (s : State) : (s.evalOverdue).bays = s.bays := rfl
@[simp] theorem State.evalOverdue_roster (s : State) : (s.evalOverdue).roster = s.roster := rfl
@[simp] theorem State.evalOverdue_index (s : State) : (s.evalOverdue).index = s.index := rfl
@[simp] theorem State.evalOverdue_rebuild (s : State) : (s.evalOverdue).rebuild = s.rebuild := rfl
@[simp] theorem State.evalOverdue_clock (s : State) : (s.evalOverdue).clock = s.clock := rfl
@[simp] theorem State.evalOverdue_env (s : State) : (s.evalOverdue).env = s.env := rfl
@[simp] theorem State.evalOverdue_alloc (s : State) : (s.evalOverdue).alloc = s.alloc := rfl
@[simp] theorem State.evalOverdue_pub (s : State) : (s.evalOverdue).pub = s.pub := rfl
@[simp] theorem State.evalOverdue_settings (s : State) : (s.evalOverdue).settings = s.settings := rfl
@[simp] theorem State.evalOverdue_ports (s : State) : (s.evalOverdue).ports = s.ports := rfl
@[simp] theorem State.evalOverdue_cabinets (s : State) : (s.evalOverdue).cabinets = s.cabinets := rfl
@[simp] theorem State.evalOverdue_sset (s : State) : (s.evalOverdue).sset = s.sset := rfl
@[simp] theorem State.evalOverdue_pins (s : State) : (s.evalOverdue).pins = s.pins := rfl
@[simp] theorem State.evalOverdue_bay (s : State) (b : Fin 32) : (s.evalOverdue).bay b = s.bay b := rfl
@[simp] theorem State.evalOverdue_entry (s : State) (k : Fin 64) : (s.evalOverdue).entry k = s.entry k := rfl
@[simp] theorem State.evalOverdue_indexAt (s : State) (i : Fin 256) : (s.evalOverdue).indexAt i = s.indexAt i := rfl
@[simp] theorem State.evalOverdue_port (s : State) (p : Port) : (s.evalOverdue).port p = s.port p := rfl
@[simp] theorem State.evalOverdue_cabinet (s : State) (c : Fin 4) : (s.evalOverdue).cabinet c = s.cabinet c := rfl
@[simp] theorem State.evalOverdue_board (s : State) (b : Fin 32) : (s.evalOverdue).board b = s.board b := rfl
@[simp] theorem State.evalOverdue_pendingInc (s : State) (b : Fin 32) : (s.evalOverdue).pendingInc b = s.pendingInc b := rfl
@[simp] theorem State.evalOverdue_marked (s : State) (b : Fin 32) : (s.evalOverdue).marked b = s.marked b := rfl

/-! `evalAtRisk` -/

@[simp] theorem State.evalAtRisk_pending (s : State) : (s.evalAtRisk).pending = s.pending := rfl
@[simp] theorem State.evalAtRisk_resetLow (s : State) : (s.evalAtRisk).resetLow = s.resetLow := rfl
@[simp] theorem State.evalAtRisk_straps (s : State) : (s.evalAtRisk).straps = s.straps := rfl
@[simp] theorem State.evalAtRisk_mode (s : State) : (s.evalAtRisk).mode = s.mode := rfl
@[simp] theorem State.evalAtRisk_pendingMode (s : State) : (s.evalAtRisk).pendingMode = s.pendingMode := rfl
@[simp] theorem State.evalAtRisk_bays (s : State) : (s.evalAtRisk).bays = s.bays := rfl
@[simp] theorem State.evalAtRisk_roster (s : State) : (s.evalAtRisk).roster = s.roster := rfl
@[simp] theorem State.evalAtRisk_index (s : State) : (s.evalAtRisk).index = s.index := rfl
@[simp] theorem State.evalAtRisk_rebuild (s : State) : (s.evalAtRisk).rebuild = s.rebuild := rfl
@[simp] theorem State.evalAtRisk_clock (s : State) : (s.evalAtRisk).clock = s.clock := rfl
@[simp] theorem State.evalAtRisk_env (s : State) : (s.evalAtRisk).env = s.env := rfl
@[simp] theorem State.evalAtRisk_alloc (s : State) : (s.evalAtRisk).alloc = s.alloc := rfl
@[simp] theorem State.evalAtRisk_pub (s : State) : (s.evalAtRisk).pub = s.pub := rfl
@[simp] theorem State.evalAtRisk_settings (s : State) : (s.evalAtRisk).settings = s.settings := rfl
@[simp] theorem State.evalAtRisk_ports (s : State) : (s.evalAtRisk).ports = s.ports := rfl
@[simp] theorem State.evalAtRisk_cabinets (s : State) : (s.evalAtRisk).cabinets = s.cabinets := rfl
@[simp] theorem State.evalAtRisk_sset (s : State) : (s.evalAtRisk).sset = s.sset := rfl
@[simp] theorem State.evalAtRisk_pins (s : State) : (s.evalAtRisk).pins = s.pins := rfl
@[simp] theorem State.evalAtRisk_bay (s : State) (b : Fin 32) : (s.evalAtRisk).bay b = s.bay b := rfl
@[simp] theorem State.evalAtRisk_entry (s : State) (k : Fin 64) : (s.evalAtRisk).entry k = s.entry k := rfl
@[simp] theorem State.evalAtRisk_indexAt (s : State) (i : Fin 256) : (s.evalAtRisk).indexAt i = s.indexAt i := rfl
@[simp] theorem State.evalAtRisk_port (s : State) (p : Port) : (s.evalAtRisk).port p = s.port p := rfl
@[simp] theorem State.evalAtRisk_cabinet (s : State) (c : Fin 4) : (s.evalAtRisk).cabinet c = s.cabinet c := rfl
@[simp] theorem State.evalAtRisk_board (s : State) (b : Fin 32) : (s.evalAtRisk).board b = s.board b := rfl
@[simp] theorem State.evalAtRisk_pendingInc (s : State) (b : Fin 32) : (s.evalAtRisk).pendingInc b = s.pendingInc b := rfl
@[simp] theorem State.evalAtRisk_marked (s : State) (b : Fin 32) : (s.evalAtRisk).marked b = s.marked b := rfl

/-! `evalExceeded` -/

@[simp] theorem State.evalExceeded_pending (s : State) : (s.evalExceeded).pending = s.pending := by rw [State.evalExceeded]
@[simp] theorem State.evalExceeded_resetLow (s : State) : (s.evalExceeded).resetLow = s.resetLow := by rw [State.evalExceeded]
@[simp] theorem State.evalExceeded_straps (s : State) : (s.evalExceeded).straps = s.straps := by rw [State.evalExceeded]
@[simp] theorem State.evalExceeded_mode (s : State) : (s.evalExceeded).mode = s.mode := by rw [State.evalExceeded]
@[simp] theorem State.evalExceeded_pendingMode (s : State) : (s.evalExceeded).pendingMode = s.pendingMode := by rw [State.evalExceeded]
@[simp] theorem State.evalExceeded_bays (s : State) : (s.evalExceeded).bays = s.bays := by rw [State.evalExceeded]
@[simp] theorem State.evalExceeded_roster (s : State) : (s.evalExceeded).roster = s.roster := by rw [State.evalExceeded]
@[simp] theorem State.evalExceeded_index (s : State) : (s.evalExceeded).index = s.index := by rw [State.evalExceeded]
@[simp] theorem State.evalExceeded_rebuild (s : State) : (s.evalExceeded).rebuild = s.rebuild := by rw [State.evalExceeded]
@[simp] theorem State.evalExceeded_clock (s : State) : (s.evalExceeded).clock = s.clock := by rw [State.evalExceeded]
@[simp] theorem State.evalExceeded_env (s : State) : (s.evalExceeded).env = s.env := by rw [State.evalExceeded]
@[simp] theorem State.evalExceeded_alloc (s : State) : (s.evalExceeded).alloc = s.alloc := by rw [State.evalExceeded]
@[simp] theorem State.evalExceeded_pub (s : State) : (s.evalExceeded).pub = s.pub := by rw [State.evalExceeded]
@[simp] theorem State.evalExceeded_settings (s : State) : (s.evalExceeded).settings = s.settings := by rw [State.evalExceeded]
@[simp] theorem State.evalExceeded_ports (s : State) : (s.evalExceeded).ports = s.ports := by rw [State.evalExceeded]
@[simp] theorem State.evalExceeded_cabinets (s : State) : (s.evalExceeded).cabinets = s.cabinets := by rw [State.evalExceeded]
@[simp] theorem State.evalExceeded_dset (s : State) : (s.evalExceeded).dset = s.dset := by rw [State.evalExceeded]
@[simp] theorem State.evalExceeded_pins (s : State) : (s.evalExceeded).pins = s.pins := by rw [State.evalExceeded]
@[simp] theorem State.evalExceeded_bay (s : State) (b : Fin 32) : (s.evalExceeded).bay b = s.bay b := by simp only [State.evalExceeded, State.bay]
@[simp] theorem State.evalExceeded_entry (s : State) (k : Fin 64) : (s.evalExceeded).entry k = s.entry k := by simp only [State.evalExceeded, State.entry]
@[simp] theorem State.evalExceeded_indexAt (s : State) (i : Fin 256) : (s.evalExceeded).indexAt i = s.indexAt i := by simp only [State.evalExceeded, State.indexAt]
@[simp] theorem State.evalExceeded_port (s : State) (p : Port) : (s.evalExceeded).port p = s.port p := by simp only [State.evalExceeded, State.port]
@[simp] theorem State.evalExceeded_cabinet (s : State) (c : Fin 4) : (s.evalExceeded).cabinet c = s.cabinet c := by simp only [State.evalExceeded, State.cabinet]
@[simp] theorem State.evalExceeded_board (s : State) (b : Fin 32) : (s.evalExceeded).board b = s.board b := by simp only [State.evalExceeded, State.board]
@[simp] theorem State.evalExceeded_pendingInc (s : State) (b : Fin 32) : (s.evalExceeded).pendingInc b = s.pendingInc b := by simp only [State.evalExceeded, State.pendingInc]
@[simp] theorem State.evalExceeded_marked (s : State) (b : Fin 32) : (s.evalExceeded).marked b = s.marked b := by simp only [State.evalExceeded, State.marked]

/-! `evalShed` -/

@[simp] theorem State.evalShed_pending (s : State) : (s.evalShed).pending = s.pending := rfl
@[simp] theorem State.evalShed_resetLow (s : State) : (s.evalShed).resetLow = s.resetLow := rfl
@[simp] theorem State.evalShed_straps (s : State) : (s.evalShed).straps = s.straps := rfl
@[simp] theorem State.evalShed_mode (s : State) : (s.evalShed).mode = s.mode := rfl
@[simp] theorem State.evalShed_pendingMode (s : State) : (s.evalShed).pendingMode = s.pendingMode := rfl
@[simp] theorem State.evalShed_bays (s : State) : (s.evalShed).bays = s.bays := rfl
@[simp] theorem State.evalShed_roster (s : State) : (s.evalShed).roster = s.roster := rfl
@[simp] theorem State.evalShed_index (s : State) : (s.evalShed).index = s.index := rfl
@[simp] theorem State.evalShed_rebuild (s : State) : (s.evalShed).rebuild = s.rebuild := rfl
@[simp] theorem State.evalShed_clock (s : State) : (s.evalShed).clock = s.clock := rfl
@[simp] theorem State.evalShed_env (s : State) : (s.evalShed).env = s.env := rfl
@[simp] theorem State.evalShed_alloc (s : State) : (s.evalShed).alloc = s.alloc := rfl
@[simp] theorem State.evalShed_pub (s : State) : (s.evalShed).pub = s.pub := rfl
@[simp] theorem State.evalShed_settings (s : State) : (s.evalShed).settings = s.settings := rfl
@[simp] theorem State.evalShed_ports (s : State) : (s.evalShed).ports = s.ports := rfl
@[simp] theorem State.evalShed_cabinets (s : State) : (s.evalShed).cabinets = s.cabinets := rfl
@[simp] theorem State.evalShed_dset (s : State) : (s.evalShed).dset = s.dset := rfl
@[simp] theorem State.evalShed_pins (s : State) : (s.evalShed).pins = s.pins := rfl
@[simp] theorem State.evalShed_bay (s : State) (b : Fin 32) : (s.evalShed).bay b = s.bay b := rfl
@[simp] theorem State.evalShed_entry (s : State) (k : Fin 64) : (s.evalShed).entry k = s.entry k := rfl
@[simp] theorem State.evalShed_indexAt (s : State) (i : Fin 256) : (s.evalShed).indexAt i = s.indexAt i := rfl
@[simp] theorem State.evalShed_port (s : State) (p : Port) : (s.evalShed).port p = s.port p := rfl
@[simp] theorem State.evalShed_cabinet (s : State) (c : Fin 4) : (s.evalShed).cabinet c = s.cabinet c := rfl
@[simp] theorem State.evalShed_board (s : State) (b : Fin 32) : (s.evalShed).board b = s.board b := rfl
@[simp] theorem State.evalShed_pendingInc (s : State) (b : Fin 32) : (s.evalShed).pendingInc b = s.pendingInc b := rfl
@[simp] theorem State.evalShed_marked (s : State) (b : Fin 32) : (s.evalShed).marked b = s.marked b := rfl

/-! `evalLinkTrouble` -/

@[simp] theorem State.evalLinkTrouble_pending (s : State) : (s.evalLinkTrouble).pending = s.pending := rfl
@[simp] theorem State.evalLinkTrouble_resetLow (s : State) : (s.evalLinkTrouble).resetLow = s.resetLow := rfl
@[simp] theorem State.evalLinkTrouble_straps (s : State) : (s.evalLinkTrouble).straps = s.straps := rfl
@[simp] theorem State.evalLinkTrouble_mode (s : State) : (s.evalLinkTrouble).mode = s.mode := rfl
@[simp] theorem State.evalLinkTrouble_pendingMode (s : State) : (s.evalLinkTrouble).pendingMode = s.pendingMode := rfl
@[simp] theorem State.evalLinkTrouble_bays (s : State) : (s.evalLinkTrouble).bays = s.bays := rfl
@[simp] theorem State.evalLinkTrouble_roster (s : State) : (s.evalLinkTrouble).roster = s.roster := rfl
@[simp] theorem State.evalLinkTrouble_index (s : State) : (s.evalLinkTrouble).index = s.index := rfl
@[simp] theorem State.evalLinkTrouble_rebuild (s : State) : (s.evalLinkTrouble).rebuild = s.rebuild := rfl
@[simp] theorem State.evalLinkTrouble_clock (s : State) : (s.evalLinkTrouble).clock = s.clock := rfl
@[simp] theorem State.evalLinkTrouble_env (s : State) : (s.evalLinkTrouble).env = s.env := rfl
@[simp] theorem State.evalLinkTrouble_alloc (s : State) : (s.evalLinkTrouble).alloc = s.alloc := rfl
@[simp] theorem State.evalLinkTrouble_pub (s : State) : (s.evalLinkTrouble).pub = s.pub := rfl
@[simp] theorem State.evalLinkTrouble_settings (s : State) : (s.evalLinkTrouble).settings = s.settings := rfl
@[simp] theorem State.evalLinkTrouble_ports (s : State) : (s.evalLinkTrouble).ports = s.ports := rfl
@[simp] theorem State.evalLinkTrouble_cabinets (s : State) : (s.evalLinkTrouble).cabinets = s.cabinets := rfl
@[simp] theorem State.evalLinkTrouble_dset (s : State) : (s.evalLinkTrouble).dset = s.dset := rfl
@[simp] theorem State.evalLinkTrouble_pins (s : State) : (s.evalLinkTrouble).pins = s.pins := rfl
@[simp] theorem State.evalLinkTrouble_bay (s : State) (b : Fin 32) : (s.evalLinkTrouble).bay b = s.bay b := rfl
@[simp] theorem State.evalLinkTrouble_entry (s : State) (k : Fin 64) : (s.evalLinkTrouble).entry k = s.entry k := rfl
@[simp] theorem State.evalLinkTrouble_indexAt (s : State) (i : Fin 256) : (s.evalLinkTrouble).indexAt i = s.indexAt i := rfl
@[simp] theorem State.evalLinkTrouble_port (s : State) (p : Port) : (s.evalLinkTrouble).port p = s.port p := rfl
@[simp] theorem State.evalLinkTrouble_cabinet (s : State) (c : Fin 4) : (s.evalLinkTrouble).cabinet c = s.cabinet c := rfl
@[simp] theorem State.evalLinkTrouble_board (s : State) (b : Fin 32) : (s.evalLinkTrouble).board b = s.board b := rfl
@[simp] theorem State.evalLinkTrouble_pendingInc (s : State) (b : Fin 32) : (s.evalLinkTrouble).pendingInc b = s.pendingInc b := rfl
@[simp] theorem State.evalLinkTrouble_marked (s : State) (b : Fin 32) : (s.evalLinkTrouble).marked b = s.marked b := rfl

/-! `evalStaleCabinet` -/

@[simp] theorem State.evalStaleCabinet_pending (s : State) : (s.evalStaleCabinet).pending = s.pending := rfl
@[simp] theorem State.evalStaleCabinet_resetLow (s : State) : (s.evalStaleCabinet).resetLow = s.resetLow := rfl
@[simp] theorem State.evalStaleCabinet_straps (s : State) : (s.evalStaleCabinet).straps = s.straps := rfl
@[simp] theorem State.evalStaleCabinet_mode (s : State) : (s.evalStaleCabinet).mode = s.mode := rfl
@[simp] theorem State.evalStaleCabinet_pendingMode (s : State) : (s.evalStaleCabinet).pendingMode = s.pendingMode := rfl
@[simp] theorem State.evalStaleCabinet_bays (s : State) : (s.evalStaleCabinet).bays = s.bays := rfl
@[simp] theorem State.evalStaleCabinet_roster (s : State) : (s.evalStaleCabinet).roster = s.roster := rfl
@[simp] theorem State.evalStaleCabinet_index (s : State) : (s.evalStaleCabinet).index = s.index := rfl
@[simp] theorem State.evalStaleCabinet_rebuild (s : State) : (s.evalStaleCabinet).rebuild = s.rebuild := rfl
@[simp] theorem State.evalStaleCabinet_clock (s : State) : (s.evalStaleCabinet).clock = s.clock := rfl
@[simp] theorem State.evalStaleCabinet_env (s : State) : (s.evalStaleCabinet).env = s.env := rfl
@[simp] theorem State.evalStaleCabinet_alloc (s : State) : (s.evalStaleCabinet).alloc = s.alloc := rfl
@[simp] theorem State.evalStaleCabinet_pub (s : State) : (s.evalStaleCabinet).pub = s.pub := rfl
@[simp] theorem State.evalStaleCabinet_settings (s : State) : (s.evalStaleCabinet).settings = s.settings := rfl
@[simp] theorem State.evalStaleCabinet_ports (s : State) : (s.evalStaleCabinet).ports = s.ports := rfl
@[simp] theorem State.evalStaleCabinet_cabinets (s : State) : (s.evalStaleCabinet).cabinets = s.cabinets := rfl
@[simp] theorem State.evalStaleCabinet_dset (s : State) : (s.evalStaleCabinet).dset = s.dset := rfl
@[simp] theorem State.evalStaleCabinet_pins (s : State) : (s.evalStaleCabinet).pins = s.pins := rfl
@[simp] theorem State.evalStaleCabinet_bay (s : State) (b : Fin 32) : (s.evalStaleCabinet).bay b = s.bay b := rfl
@[simp] theorem State.evalStaleCabinet_entry (s : State) (k : Fin 64) : (s.evalStaleCabinet).entry k = s.entry k := rfl
@[simp] theorem State.evalStaleCabinet_indexAt (s : State) (i : Fin 256) : (s.evalStaleCabinet).indexAt i = s.indexAt i := rfl
@[simp] theorem State.evalStaleCabinet_port (s : State) (p : Port) : (s.evalStaleCabinet).port p = s.port p := rfl
@[simp] theorem State.evalStaleCabinet_cabinet (s : State) (c : Fin 4) : (s.evalStaleCabinet).cabinet c = s.cabinet c := rfl
@[simp] theorem State.evalStaleCabinet_board (s : State) (b : Fin 32) : (s.evalStaleCabinet).board b = s.board b := rfl
@[simp] theorem State.evalStaleCabinet_pendingInc (s : State) (b : Fin 32) : (s.evalStaleCabinet).pendingInc b = s.pendingInc b := rfl
@[simp] theorem State.evalStaleCabinet_marked (s : State) (b : Fin 32) : (s.evalStaleCabinet).marked b = s.marked b := rfl

/-! `evalLoadStale` -/

@[simp] theorem State.evalLoadStale_pending (s : State) : (s.evalLoadStale).pending = s.pending := rfl
@[simp] theorem State.evalLoadStale_resetLow (s : State) : (s.evalLoadStale).resetLow = s.resetLow := rfl
@[simp] theorem State.evalLoadStale_straps (s : State) : (s.evalLoadStale).straps = s.straps := rfl
@[simp] theorem State.evalLoadStale_mode (s : State) : (s.evalLoadStale).mode = s.mode := rfl
@[simp] theorem State.evalLoadStale_pendingMode (s : State) : (s.evalLoadStale).pendingMode = s.pendingMode := rfl
@[simp] theorem State.evalLoadStale_bays (s : State) : (s.evalLoadStale).bays = s.bays := rfl
@[simp] theorem State.evalLoadStale_roster (s : State) : (s.evalLoadStale).roster = s.roster := rfl
@[simp] theorem State.evalLoadStale_index (s : State) : (s.evalLoadStale).index = s.index := rfl
@[simp] theorem State.evalLoadStale_rebuild (s : State) : (s.evalLoadStale).rebuild = s.rebuild := rfl
@[simp] theorem State.evalLoadStale_clock (s : State) : (s.evalLoadStale).clock = s.clock := rfl
@[simp] theorem State.evalLoadStale_env (s : State) : (s.evalLoadStale).env = s.env := rfl
@[simp] theorem State.evalLoadStale_alloc (s : State) : (s.evalLoadStale).alloc = s.alloc := rfl
@[simp] theorem State.evalLoadStale_pub (s : State) : (s.evalLoadStale).pub = s.pub := rfl
@[simp] theorem State.evalLoadStale_settings (s : State) : (s.evalLoadStale).settings = s.settings := rfl
@[simp] theorem State.evalLoadStale_ports (s : State) : (s.evalLoadStale).ports = s.ports := rfl
@[simp] theorem State.evalLoadStale_cabinets (s : State) : (s.evalLoadStale).cabinets = s.cabinets := rfl
@[simp] theorem State.evalLoadStale_dset (s : State) : (s.evalLoadStale).dset = s.dset := rfl
@[simp] theorem State.evalLoadStale_pins (s : State) : (s.evalLoadStale).pins = s.pins := rfl
@[simp] theorem State.evalLoadStale_bay (s : State) (b : Fin 32) : (s.evalLoadStale).bay b = s.bay b := rfl
@[simp] theorem State.evalLoadStale_entry (s : State) (k : Fin 64) : (s.evalLoadStale).entry k = s.entry k := rfl
@[simp] theorem State.evalLoadStale_indexAt (s : State) (i : Fin 256) : (s.evalLoadStale).indexAt i = s.indexAt i := rfl
@[simp] theorem State.evalLoadStale_port (s : State) (p : Port) : (s.evalLoadStale).port p = s.port p := rfl
@[simp] theorem State.evalLoadStale_cabinet (s : State) (c : Fin 4) : (s.evalLoadStale).cabinet c = s.cabinet c := rfl
@[simp] theorem State.evalLoadStale_board (s : State) (b : Fin 32) : (s.evalLoadStale).board b = s.board b := rfl
@[simp] theorem State.evalLoadStale_pendingInc (s : State) (b : Fin 32) : (s.evalLoadStale).pendingInc b = s.pendingInc b := rfl
@[simp] theorem State.evalLoadStale_marked (s : State) (b : Fin 32) : (s.evalLoadStale).marked b = s.marked b := rfl

/-! `evalUnconfirmed` -/

@[simp] theorem State.evalUnconfirmed_pending (s : State) : (s.evalUnconfirmed).pending = s.pending := rfl
@[simp] theorem State.evalUnconfirmed_resetLow (s : State) : (s.evalUnconfirmed).resetLow = s.resetLow := rfl
@[simp] theorem State.evalUnconfirmed_straps (s : State) : (s.evalUnconfirmed).straps = s.straps := rfl
@[simp] theorem State.evalUnconfirmed_mode (s : State) : (s.evalUnconfirmed).mode = s.mode := rfl
@[simp] theorem State.evalUnconfirmed_pendingMode (s : State) : (s.evalUnconfirmed).pendingMode = s.pendingMode := rfl
@[simp] theorem State.evalUnconfirmed_bays (s : State) : (s.evalUnconfirmed).bays = s.bays := rfl
@[simp] theorem State.evalUnconfirmed_roster (s : State) : (s.evalUnconfirmed).roster = s.roster := rfl
@[simp] theorem State.evalUnconfirmed_index (s : State) : (s.evalUnconfirmed).index = s.index := rfl
@[simp] theorem State.evalUnconfirmed_rebuild (s : State) : (s.evalUnconfirmed).rebuild = s.rebuild := rfl
@[simp] theorem State.evalUnconfirmed_clock (s : State) : (s.evalUnconfirmed).clock = s.clock := rfl
@[simp] theorem State.evalUnconfirmed_env (s : State) : (s.evalUnconfirmed).env = s.env := rfl
@[simp] theorem State.evalUnconfirmed_alloc (s : State) : (s.evalUnconfirmed).alloc = s.alloc := rfl
@[simp] theorem State.evalUnconfirmed_pub (s : State) : (s.evalUnconfirmed).pub = s.pub := rfl
@[simp] theorem State.evalUnconfirmed_settings (s : State) : (s.evalUnconfirmed).settings = s.settings := rfl
@[simp] theorem State.evalUnconfirmed_ports (s : State) : (s.evalUnconfirmed).ports = s.ports := rfl
@[simp] theorem State.evalUnconfirmed_cabinets (s : State) : (s.evalUnconfirmed).cabinets = s.cabinets := rfl
@[simp] theorem State.evalUnconfirmed_dset (s : State) : (s.evalUnconfirmed).dset = s.dset := rfl
@[simp] theorem State.evalUnconfirmed_pins (s : State) : (s.evalUnconfirmed).pins = s.pins := rfl
@[simp] theorem State.evalUnconfirmed_bay (s : State) (b : Fin 32) : (s.evalUnconfirmed).bay b = s.bay b := rfl
@[simp] theorem State.evalUnconfirmed_entry (s : State) (k : Fin 64) : (s.evalUnconfirmed).entry k = s.entry k := rfl
@[simp] theorem State.evalUnconfirmed_indexAt (s : State) (i : Fin 256) : (s.evalUnconfirmed).indexAt i = s.indexAt i := rfl
@[simp] theorem State.evalUnconfirmed_port (s : State) (p : Port) : (s.evalUnconfirmed).port p = s.port p := rfl
@[simp] theorem State.evalUnconfirmed_cabinet (s : State) (c : Fin 4) : (s.evalUnconfirmed).cabinet c = s.cabinet c := rfl
@[simp] theorem State.evalUnconfirmed_board (s : State) (b : Fin 32) : (s.evalUnconfirmed).board b = s.board b := rfl
@[simp] theorem State.evalUnconfirmed_pendingInc (s : State) (b : Fin 32) : (s.evalUnconfirmed).pendingInc b = s.pendingInc b := rfl
@[simp] theorem State.evalUnconfirmed_marked (s : State) (b : Fin 32) : (s.evalUnconfirmed).marked b = s.marked b := rfl

/-! ### What is handed to the Notice Unit -/

@[simp] theorem State.evalOverdue_dset (s : State) :
    s.evalOverdue.dset = s.dset.setCond DFlag.overdue.bit s.overdueStands := rfl

@[simp] theorem State.evalAtRisk_dset (s : State) :
    s.evalAtRisk.dset = s.dset.setCond DFlag.atRisk.bit s.atRiskStands := rfl

@[simp] theorem State.evalExceeded_sset (s : State) :
    s.evalExceeded.sset = s.sset.setCond SFlag.envelopeExceeded.bit s.exceededStands := by rw [State.evalExceeded]

@[simp] theorem State.evalShed_sset (s : State) :
    s.evalShed.sset = s.sset.setCond SFlag.shedActive.bit s.env.shed := rfl

@[simp] theorem State.evalLinkTrouble_sset (s : State) :
    s.evalLinkTrouble.sset = s.sset.setCond SFlag.linkTrouble.bit s.linkTroubleStands := rfl

@[simp] theorem State.evalStaleCabinet_sset (s : State) :
    s.evalStaleCabinet.sset = s.sset.setCond SFlag.staleCabinet.bit s.staleCabinetStands := rfl

@[simp] theorem State.evalLoadStale_sset (s : State) :
    s.evalLoadStale.sset = s.sset.setCond SFlag.loadStale.bit s.env.stale := rfl

@[simp] theorem State.evalUnconfirmed_sset (s : State) :
    s.evalUnconfirmed.sset = s.sset.setCond SFlag.unconfirmedSetpoint.bit s.unconfirmedStands := rfl

/-! ### Read after write -/

theorem portIdx_inj {p q : Port} (h : portIdx p = portIdx q) : p = q := by
  have h := congrArg Fin.val h
  match p, q with
  | .c m, .c n => exact congrArg Port.c (Fin.ext (by simpa [portIdx] using h))
  | .d, .d | .s, .s => rfl
  | .d, .s | .s, .d => simp [portIdx] at h
  | .d, .c n | .s, .c n => simp only [portIdx, Fin.coe_ofNat_eq_mod] at h; omega
  | .c n, .d | .c n, .s => simp only [portIdx, Fin.coe_ofNat_eq_mod] at h; omega

@[simp] theorem State.bay_setBay (s : State) (b : Fin 32) (x : Bay) (a : Fin 32) :
    (s.setBay b x).bay a = if a = b then x else s.bay a := by
  simp only [State.bay, State.setBay, Fin.getElem_fin, Vector.getElem_set, Fin.ext_iff, eq_comm]

@[simp] theorem State.entry_setEntry (s : State) (k : Fin 64) (x : Option Entry) (j : Fin 64) :
    (s.setEntry k x).entry j = if j = k then x else s.entry j := by
  simp only [State.entry, State.setEntry, Fin.getElem_fin, Vector.getElem_set, Fin.ext_iff, eq_comm]

@[simp] theorem State.indexAt_setIndex (s : State) (i : Fin 256) (x : Option (Fin 64)) (j : Fin 256) :
    (s.setIndex i x).indexAt j = if j = i then x else s.indexAt j := by
  simp only [State.indexAt, State.setIndex, Fin.getElem_fin, Vector.getElem_set, Fin.ext_iff, eq_comm]

@[simp] theorem State.port_setPort (s : State) (p : Port) (x : LinkPort) (q : Port) :
    (s.setPort p x).port q = if q = p then x else s.port q := by
  by_cases h : q = p
  · subst h; simp [State.port, State.setPort]
  · have : portIdx p ≠ portIdx q := fun e => h (portIdx_inj e).symm
    simp [State.port, State.setPort, h, Fin.val_ne_of_ne this]

@[simp] theorem State.cabinet_setCabinet (s : State) (c : Fin 4) (x : Cabinet) (d : Fin 4) :
    (s.setCabinet c x).cabinet d = if d = c then x else s.cabinet d := by
  simp only [State.cabinet, State.setCabinet, Fin.getElem_fin, Vector.getElem_set, Fin.ext_iff, eq_comm]

@[simp] theorem State.board_setBoard (s : State) (b : Fin 32) (x : Option (Nat × Seq)) (a : Fin 32) :
    (s.setBoard b x).board a = if a = b then x else s.board a := by
  simp only [State.board, State.setBoard, Fin.getElem_fin, Vector.getElem_set, Fin.ext_iff, eq_comm]

@[simp] theorem State.pendingInc_setPendingInc (s : State) (b : Fin 32) (x : Option Nat) (a : Fin 32) :
    (s.setPendingInc b x).pendingInc a = if a = b then x else s.pendingInc a := by
  simp only [State.pendingInc, State.setPendingInc, Fin.getElem_fin, Vector.getElem_set, Fin.ext_iff, eq_comm]

@[simp] theorem State.pendingInc_dropIncreases (s : State) (b : Fin 32) : s.dropIncreases.pendingInc b = none := by
  simp [State.pendingInc, State.dropIncreases]

@[simp] theorem State.bay_mapBays (s : State) (f : Fin 32 → Bay → Bay) (b : Fin 32) :
    (s.mapBays f).bay b = f b (s.bay b) := by simp [State.bay, State.mapBays]

@[simp] theorem State.entry_mapEntries (s : State) (f : Entry → Entry) (k : Fin 64) :
    (s.mapEntries f).entry k = (s.entry k).map f := by simp [State.entry, State.mapEntries]

@[simp] theorem State.port_mapPorts (s : State) (f : LinkPort → LinkPort) (p : Port) :
    (s.mapPorts f).port p = f (s.port p) := by simp [State.port, State.mapPorts]

@[simp] theorem State.cabinet_mapCabinets (s : State) (f : Fin 4 → Cabinet → Cabinet) (c : Fin 4) :
    (s.mapCabinets f).cabinet c = f c (s.cabinet c) := by simp [State.cabinet, State.mapCabinets]

theorem State.marked_mark (s : State) (b a : Fin 32) :
    (s.mark b).marked a = (s.marked a || (s.alloc.snap.isSome && a == b)) := by
  unfold State.mark
  by_cases h : s.alloc.snap.isSome
  · by_cases e : a = b
    · subst e; simp [h, State.marked]
    · have : b.val ≠ a.val := fun x => e (Fin.ext x.symm)
      simp [h, State.marked, this, e]
  · simp [h]

/-! ### Writing twice, and writing back -/

@[simp] theorem State.setPort_setPort (s : State) (p : Port) (x y : LinkPort) :
    (s.setPort p x).setPort p y = s.setPort p y := by simp [State.setPort]

@[simp] theorem State.setBay_setBay (s : State) (b : Fin 32) (x y : Bay) :
    (s.setBay b x).setBay b y = s.setBay b y := by simp [State.setBay]

@[simp] theorem State.setPort_self (s : State) (p : Port) : s.setPort p (s.port p) = s := by
  simp [State.setPort, State.port]

@[simp] theorem State.setBay_self (s : State) (b : Fin 32) : s.setBay b (s.bay b) = s := by
  simp [State.setBay, State.bay]

/-! ### Equality record by record -/

theorem bays_ext {s t : State} (h : ∀ b, t.bay b = s.bay b) : t.bays = s.bays :=
  Vector.ext fun i hi => h ⟨i, hi⟩

theorem roster_ext {s t : State} (h : ∀ k, t.entry k = s.entry k) : t.roster = s.roster :=
  Vector.ext fun i hi => h ⟨i, hi⟩

theorem cabinets_ext {s t : State} (h : ∀ c, t.cabinet c = s.cabinet c) : t.cabinets = s.cabinets :=
  Vector.ext fun i hi => h ⟨i, hi⟩

theorem board_ext {s t : State} (h : ∀ b, t.board b = s.board b) : t.pub.board = s.pub.board :=
  Vector.ext fun i hi => h ⟨i, hi⟩

theorem increases_ext {s t : State} (h : ∀ b, t.pendingInc b = s.pendingInc b) : t.pub.pending = s.pub.pending :=
  Vector.ext fun i hi => h ⟨i, hi⟩

theorem ports_ext {s t : State} (h : ∀ p, t.port p = s.port p) : t.ports = s.ports := by
  refine Vector.ext fun i hi => ?_
  have h0 := h .d; have h1 := h .s; have h2 := h (.c 0); have h3 := h (.c 1); have h4 := h (.c 2); have h5 := h (.c 3)
  simp only [State.port, portIdx] at h0 h1 h2 h3 h4 h5
  match i, hi with
  | 0, _ => exact h0
  | 1, _ => exact h1
  | 2, _ => exact h2
  | 3, _ => exact h3
  | 4, _ => exact h4
  | 5, _ => exact h5

end Sys2Proof.Machine
end

