-- ==== Sys2Proof/Laws/Frame.lean ====
section
/-!
SUPPORT. How frames compose: `SameBut` and `NoticeSet.SameBut` chain and widen; what one write, one flag and one condition
leave alone.
-/
namespace Sys2Proof.Machine

/-! ### Frames of the state -/

theorem Block.same_refl (k : Block) (s : State) : k.same s s := by cases k <;> rfl

theorem Block.same_trans {k : Block} {s t u : State} (h : k.same s t) (h' : k.same t u) : k.same s u := by
  cases k <;> exact Eq.trans h' h

theorem SameBut.refl (l : List Block) (s : State) : SameBut l s s := fun k _ => k.same_refl s

theorem SameBut.mono {l l' : List Block} {s t : State} (h : SameBut l s t) (hl : ∀ k ∈ l, k ∈ l') : SameBut l' s t :=
  fun k hk => h k fun hm => hk (hl k hm)

theorem SameBut.trans {l : List Block} {s t u : State} (h : SameBut l s t) (h' : SameBut l t u) : SameBut l s u :=
  fun k hk => Block.same_trans (h k hk) (h' k hk)

/-- Two frames chain under any list that contains both. -/
theorem SameBut.comp {l₁ l₂ l : List Block} {s t u : State} (h : SameBut l₁ s t) (h' : SameBut l₂ t u)
    (h₁ : ∀ k ∈ l₁, k ∈ l) (h₂ : ∀ k ∈ l₂, k ∈ l) : SameBut l s u := (h.mono h₁).trans (h'.mono h₂)

theorem SameBut.pending {l : List Block} {s t : State} (h : SameBut l s t) (hk : Block.queue ∉ l) :
    t.pending = s.pending := h .queue hk

/-! ### Frames of a notice set -/

theorem NoticeSet.SameBut.refl (bits : Mask) (n : NoticeSet) : NoticeSet.SameBut bits n n := ⟨rfl, rfl, rfl⟩

theorem NoticeSet.SameBut.trans {bits : Mask} {n n' n'' : NoticeSet} (h : NoticeSet.SameBut bits n n')
    (h' : NoticeSet.SameBut bits n' n'') : NoticeSet.SameBut bits n n'' :=
  ⟨h'.1.trans h.1, h'.2.1.trans h.2.1, h'.2.2.trans h.2.2⟩

/-- Words equal outside `a` are equal outside any `b` that contains `a`. -/
theorem same_outside {a b x y : Mask} (hab : a &&& ~~~b = 0) (h : x &&& ~~~a = y &&& ~~~a) :
    x &&& ~~~b = y &&& ~~~b := by
  have e : ~~~b = ~~~a &&& ~~~b := by
    ext i hi
    have := congrArg (fun m : Mask => m[i]) hab
    simp only [BitVec.getElem_and, BitVec.getElem_not] at this ⊢
    cases ha : a[i] <;> cases hb : b[i] <;> simp_all
  rw [e, ← BitVec.and_assoc, ← BitVec.and_assoc, h]

theorem NoticeSet.SameBut.mono {bits bits' : Mask} {n n' : NoticeSet} (h : NoticeSet.SameBut bits n n')
    (hb : bits &&& ~~~bits' = 0) : NoticeSet.SameBut bits' n n' :=
  ⟨h.1, same_outside hb h.2.1, same_outside hb h.2.2⟩

/-- Two frames chain under any bits that contain both. -/
theorem NoticeSet.SameBut.comp {b₁ b₂ b : Mask} {n n' n'' : NoticeSet} (h : NoticeSet.SameBut b₁ n n')
    (h' : NoticeSet.SameBut b₂ n' n'') (h₁ : b₁ &&& ~~~b = 0) (h₂ : b₂ &&& ~~~b = 0) : NoticeSet.SameBut b n n'' :=
  (h.mono h₁).trans (h'.mono h₂)

theorem or_outside (p b : Mask) : (p ||| b) &&& ~~~b = p &&& ~~~b := by
  ext i hi; simp only [BitVec.getElem_and, BitVec.getElem_or, BitVec.getElem_not]; cases p[i] <;> cases b[i] <;> rfl

theorem and_not_outside (p b : Mask) : (p &&& ~~~b) &&& ~~~b = p &&& ~~~b := by
  rw [BitVec.and_assoc, BitVec.and_self]

theorem NoticeSet.setCond_frame (n : NoticeSet) (bit : Mask) (stands : Bool) :
    NoticeSet.SameBut bit n (n.setCond bit stands) := by
  unfold NoticeSet.setCond
  cases stands
  · exact ⟨rfl, rfl, and_not_outside _ _⟩
  · refine ⟨rfl, ?_, or_outside _ _⟩
    simp only [if_true]
    split
    · exact or_outside _ _
    · rfl

theorem NoticeSet.raise_frame (n : NoticeSet) (bit : Mask) : NoticeSet.SameBut bit n (n.raise bit) :=
  ⟨rfl, or_outside _ _, rfl⟩

theorem NoticeSet.raise_pending (n : NoticeSet) (bit : Mask) : (n.raise bit).pending &&& bit = bit := by
  simp only [NoticeSet.raise]
  ext i hi; simp only [BitVec.getElem_and, BitVec.getElem_or]; cases n.pending[i] <;> cases bit[i] <;> rfl

theorem NoticeSet.setCond_cond (n : NoticeSet) (bit : Mask) (stands : Bool) :
    (n.setCond bit stands).cond = if stands then n.cond ||| bit else n.cond &&& ~~~bit := by
  unfold NoticeSet.setCond; cases stands <;> rfl

/-! ### Frames of the named writes -/

theorem State.setBay_frame (s : State) (b : Fin 32) (x : Bay) : SameBut [.bays] s (s.setBay b x) := by
  intro k hk; cases k <;> first | rfl | simp at hk

theorem State.setEntry_frame (s : State) (k : Fin 64) (x : Option Entry) : SameBut [.roster] s (s.setEntry k x) := by
  intro k hk; cases k <;> first | rfl | simp at hk

theorem State.setIndex_frame (s : State) (i : Fin 256) (x : Option (Fin 64)) :
    SameBut [.index] s (s.setIndex i x) := by intro k hk; cases k <;> first | rfl | simp at hk

theorem State.setPort_frame (s : State) (p : Port) (x : LinkPort) : SameBut [.ports] s (s.setPort p x) := by
  intro k hk; cases k <;> first | rfl | simp at hk

theorem State.setCabinet_frame (s : State) (c : Fin 4) (x : Cabinet) : SameBut [.cabinets] s (s.setCabinet c x) := by
  intro k hk; cases k <;> first | rfl | simp at hk

theorem State.setBoard_frame (s : State) (b : Fin 32) (x : Option (Nat × Seq)) :
    SameBut [.board] s (s.setBoard b x) := by intro k hk; cases k <;> first | rfl | simp at hk

theorem State.setPendingInc_frame (s : State) (b : Fin 32) (x : Option Nat) :
    SameBut [.increases] s (s.setPendingInc b x) := by intro k hk; cases k <;> first | rfl | simp at hk

theorem State.dropIncreases_frame (s : State) : SameBut [.increases] s s.dropIncreases := by
  intro k hk; cases k <;> first | rfl | simp at hk

theorem State.mark_frame (s : State) (b : Fin 32) : SameBut [.marks] s (s.mark b) := by
  intro k hk; unfold State.mark; split <;> cases k <;> first | rfl | simp at hk

theorem State.raiseD_frame (s : State) (f : DFlag) : SameBut [.dset] s (s.raiseD f) := by
  intro k hk; cases k <;> first | rfl | simp at hk

theorem State.raiseS_frame (s : State) (f : SFlag) : SameBut [.sset] s (s.raiseS f) := by
  intro k hk; cases k <;> first | rfl | simp at hk

theorem State.evalOverdue_frame (s : State) : SameBut [.dset] s s.evalOverdue := by
  intro k hk; cases k <;> first | rfl | simp at hk

theorem State.evalAtRisk_frame (s : State) : SameBut [.dset] s s.evalAtRisk := by
  intro k hk; cases k <;> first | rfl | simp at hk

theorem State.evalExceeded_frame (s : State) : SameBut [.sset] s s.evalExceeded := by
  intro k hk; cases k <;> first | (simp only [Block.same, State.evalExceeded]; done) | simp at hk

theorem State.evalShed_frame (s : State) : SameBut [.sset] s s.evalShed := by
  intro k hk; cases k <;> first | rfl | simp at hk

theorem State.evalLinkTrouble_frame (s : State) : SameBut [.sset] s s.evalLinkTrouble := by
  intro k hk; cases k <;> first | rfl | simp at hk

theorem State.evalStaleCabinet_frame (s : State) : SameBut [.sset] s s.evalStaleCabinet := by
  intro k hk; cases k <;> first | rfl | simp at hk

theorem State.evalLoadStale_frame (s : State) : SameBut [.sset] s s.evalLoadStale := by
  intro k hk; cases k <;> first | rfl | simp at hk

theorem State.evalUnconfirmed_frame (s : State) : SameBut [.sset] s s.evalUnconfirmed := by
  intro k hk; cases k <;> first | rfl | simp at hk

/-- The conditions a session start or end can change touch AT RISK, UNCONFIRMED SETPOINT and ENVELOPE EXCEEDED alone. -/
theorem State.evalSession_frame (s : State) : SameBut [.dset, .sset] s s.evalSession ∧
    NoticeSet.SameBut DFlag.atRisk.bit s.dset s.evalSession.dset ∧ NoticeSet.SameBut 0x0021 s.sset s.evalSession.sset := by
  refine ⟨?_, ?_, ?_⟩
  · exact (s.evalAtRisk_frame.comp (s.evalAtRisk.evalUnconfirmed_frame.trans (State.evalExceeded_frame _)) (by simp)
      (by simp))
  · simpa only [State.evalSession, State.evalExceeded_dset, State.evalUnconfirmed_dset, State.evalAtRisk_dset]
      using NoticeSet.setCond_frame _ _ _
  · simp only [State.evalSession, State.evalExceeded_sset, State.evalUnconfirmed_sset, State.evalAtRisk_sset]
    exact (NoticeSet.setCond_frame s.sset SFlag.unconfirmedSetpoint.bit _).comp (NoticeSet.setCond_frame _ _ _) (by decide)
      (by decide)

end Sys2Proof.Machine
end

