-- ==== Sys2Proof/Laws/Ops.lean ====
section
/-!
SUPPORT. What each shared operation of Machine/Ops.lean can do, said once: transmission, publication, confirmation, session
end, and the handling of an item.
-/
namespace Sys2Proof.Machine

/-! ### Transmission -/

theorem LinkPort.Kicked.refl (r : LinkPort) : LinkPort.Kicked r r := Or.inl rfl

theorem LinkPort.Kicked.trans {r r' r'' : LinkPort} (h : LinkPort.Kicked r r') (h' : LinkPort.Kicked r' r'') :
    LinkPort.Kicked r r'' := by
  rcases h with rfl | ⟨hi, rfl⟩
  · exact h'
  · rcases h' with rfl | ⟨h2, _⟩
    · exact Or.inr ⟨hi, rfl⟩
    · simp at h2

/-- A kick is no more than an IDLE transmitter of the port entering GAP (R110). -/
theorem State.kick_eq (s : State) (p : Port) :
    s.kick p = if (s.port p).tx = .idle ∧ (s.port p).health ≠ .detached ∧ s.hasToSend p = true then
      s.setPort p { s.port p with tx := .gap } else s := rfl

theorem State.kick_frame (s : State) (p : Port) : SameBut [.ports] s (s.kick p) := by
  unfold State.kick; split
  · exact s.setPort_frame _ _
  · exact SameBut.refl _ s

theorem State.kick_port (s : State) (p q : Port) : LinkPort.Kicked (s.port q) ((s.kick p).port q) := by
  unfold State.kick
  split
  · rename_i h
    by_cases e : q = p
    · subst e; exact Or.inr ⟨h.1, by simp⟩
    · simp [e, LinkPort.Kicked.refl]
  · exact LinkPort.Kicked.refl _

theorem State.kick_bay (s : State) (p : Port) (b : Fin 32) : (s.kick p).bay b = s.bay b := by
  unfold State.kick; split <;> simp

theorem State.kick_board (s : State) (p : Port) (b : Fin 32) : (s.kick p).board b = s.board b := by
  unfold State.kick; split <;> simp

/-- A reply formed while the port is not DETACHED joins the queue's tail, and an IDLE transmitter enters GAP (R109, R110). -/
theorem State.reply_eq_sends {s : State} {p : Port} (m : Msg) (h : (s.port p).health ≠ .detached) :
    s.reply p m = s.sends p m := by
  have hq : (s.setPort p { s.port p with queue := (s.port p).queue ++ [m] }).hasToSend p = true := by
    simp [State.hasToSend]
  simp only [State.reply, h, if_false, State.kick, hq, State.sends, LinkPort.queued, State.port_setPort, if_true,
    State.setPort_setPort, ne_eq, not_false_eq_true, and_true]
  by_cases e : (s.port p).tx = .idle <;> simp [e]

/-- A reply formed while the port is DETACHED is discarded (R118). -/
theorem State.reply_detached {s : State} {p : Port} (m : Msg) (h : (s.port p).health = .detached) : s.reply p m = s := by
  simp [State.reply, h]

@[simp] theorem State.sends_port (s : State) (p q : Port) (m : Msg) :
    (s.sends p m).port q = if q = p then (s.port p).queued m else s.port q := by simp [State.sends]

/-! ### Publication -/

/-- What steps 1 to 3 of a publication leave (R88). -/
structure Issues (s t : State) (b : Fin 32) (v : Nat) : Prop where
  bay : t.bay b = { s.bay b with published := v, seq := (s.bay b).seq + 1 }
  bays : ∀ a, a ≠ b → t.bay a = s.bay a
  board : t.board b = some (v, (s.bay b).seq + 1)
  boards : ∀ a, a ≠ b → t.board a = s.board a
  ports : ∀ p, LinkPort.Kicked (s.port p) (t.port p)
  frame : SameBut [.bays, .board, .ports] s t

theorem State.issue_spec (s : State) (b : Fin 32) (v : Nat) : Issues s (s.issue b v) b v where
  bay := by simp [State.issue, State.kick_bay]
  bays := fun a h => by simp [State.issue, State.kick_bay, h]
  board := by simp [State.issue, State.kick_board]
  boards := fun a h => by simp [State.issue, State.kick_board, h]
  ports := fun p => by
    have := State.kick_port ((s.setBay b { s.bay b with published := v, seq := (s.bay b).seq + 1 }).setBoard b
      (some (v, (s.bay b).seq + 1))) (.c (cabinetOf b)) p
    simpa [State.issue] using this
  frame := by
    refine SameBut.comp ((s.setBay_frame b _).comp (State.setBoard_frame _ b _) (l := [.bays, .board]) ?_ ?_)
      (State.kick_frame _ _) ?_ ?_ <;> simp

/-- What a publication of a reachable bay leaves (R88, R48). -/
structure Publishes (s t : State) (b : Fin 32) (v : Nat) : Prop where
  bay : t.bay b = { s.bay b with published := v, seq := (s.bay b).seq + 1 }
  bays : ∀ a, a ≠ b → t.bay a = s.bay a
  board : t.board b = some (v, (s.bay b).seq + 1)
  boards : ∀ a, a ≠ b → t.board a = s.board a
  ports : ∀ p, LinkPort.Kicked (s.port p) (t.port p)
  sset : NoticeSet.SameBut 0x0001 s.sset t.sset
  frame : SameBut [.bays, .board, .ports, .sset] s t

theorem State.publish_spec {s : State} {b : Fin 32} (v : Nat) (h : (s.bay b).reachable = true) :
    Publishes s (s.publish b v) b v := by
  have i := s.issue_spec b v
  have e : s.publish b v = (s.issue b v).evalExceeded := by simp [State.publish, h]
  rw [e]
  refine ⟨by simpa using i.bay, by simpa using i.bays, by simpa using i.board, by simpa using i.boards,
    by simpa using i.ports, ?_, ?_⟩
  · rw [State.evalExceeded_sset, show (s.issue b v).sset = s.sset from i.frame .sset (by simp)]
    exact NoticeSet.setCond_frame _ _ _
  · exact i.frame.comp (State.evalExceeded_frame _) (by simp) (by simp)

/-- A bay that is not reachable publishes nothing (R88). -/
theorem State.publish_unreachable {s : State} {b : Fin 32} (v : Nat) (h : (s.bay b).reachable = false) :
    s.publish b v = s := by simp [State.publish, h]

/-- The vehicle-limit publication (R93) of a reachable bay: none, or one of the cut value. -/
theorem State.limitVehicle_spec {s : State} {b : Fin 32} (h : (s.bay b).reachable = true) :
    if (s.bay b).inSession = true ∧ (s.bay b).plim < (s.bay b).published then
      Publishes s (s.limitVehicle b) b (cutTo s.settings.pminInForce (s.bay b).plim)
    else s.limitVehicle b = s := by
  have e : s.limitVehicle b = if (s.bay b).inSession = true ∧ (s.bay b).plim < (s.bay b).published then
      s.publish b (cutTo s.settings.pminInForce (s.bay b).plim) else s := rfl
  rw [e]
  split
  · exact State.publish_spec _ h
  · rfl

/-- A confirmation (R90) that carries the published sequence of a bay in session. -/
structure Confirms (s t : State) (b : Fin 32) : Prop where
  bay : t.bay b = { s.bay b with confirmed := (s.bay b).published, unconfirmed := 0 }
  bays : ∀ a, a ≠ b → t.bay a = s.bay a
  sset : NoticeSet.SameBut 0x0021 s.sset t.sset
  frame : SameBut [.bays, .sset] s t

theorem State.confirm_spec {s : State} {b : Fin 32} {seq : Byte} (h : (s.bay b).inSession = true)
    (hq : seq.toNat = (s.bay b).seq.toNat) : Confirms s (s.confirm b seq) b := by
  have e : s.confirm b seq =
      (s.setBay b { s.bay b with confirmed := (s.bay b).published, unconfirmed := 0 }).evalUnconfirmed.evalExceeded := by
    simp [State.confirm, h, hq]
  rw [e]
  refine ⟨by simp, fun a ha => by simp [ha], ?_, ?_⟩
  · simp only [State.evalExceeded_sset, State.evalUnconfirmed_sset, State.setBay_sset]
    exact (NoticeSet.setCond_frame _ _ _).comp (NoticeSet.setCond_frame _ _ _) (by decide) (by decide)
  · exact (s.setBay_frame b _).comp ((State.evalUnconfirmed_frame _).trans (State.evalExceeded_frame _)) (by simp) (by simp)

theorem State.confirm_ignored {s : State} {b : Fin 32} {seq : Byte}
    (h : ¬ ((s.bay b).inSession = true ∧ seq.toNat = (s.bay b).seq.toNat)) : s.confirm b seq = s := by
  simp only [State.confirm, if_neg h]

/-- Steps 1 to 4 of a resync METER (R91). -/
structure Adopts (s t : State) (b : Fin 32) (value : Nat) (seq : Byte) : Prop where
  bay : t.bay b = { s.bay b with published := min maxPower value, confirmed := min maxPower value
                                 seq := BitVec.ofNat 3 seq.toNat, unconfirmed := 0, resync := false }
  bays : ∀ a, a ≠ b → t.bay a = s.bay a
  board : t.board b = none
  boards : ∀ a, a ≠ b → t.board a = s.board a
  sset : NoticeSet.SameBut 0x0021 s.sset t.sset
  frame : SameBut [.bays, .board, .sset] s t

theorem State.adopt_spec (s : State) (b : Fin 32) (value : Nat) (seq : Byte) : Adopts s (s.adopt b value seq) b value seq where
  bay := by simp [State.adopt]
  bays := fun a h => by simp [State.adopt, h]
  board := by simp [State.adopt]
  boards := fun a h => by simp [State.adopt, h]
  sset := by
    simp only [State.adopt, State.evalExceeded_sset, State.evalUnconfirmed_sset, State.setBay_sset, State.setBoard_sset]
    exact (NoticeSet.setCond_frame _ _ _).comp (NoticeSet.setCond_frame _ _ _) (by decide) (by decide)
  frame := by
    refine SameBut.comp ((s.setBay_frame b _).comp (State.setBoard_frame _ b _) (l := [.bays, .board]) ?_ ?_)
      ((State.evalUnconfirmed_frame _).trans (State.evalExceeded_frame _)) ?_ ?_ <;> simp

/-! ### Sessions -/

theorem Bay.session_eq_some {x : Bay} {y : Session} : x.session = some y ↔ x.occ = .session y := by
  unfold Bay.session; cases x.occ <;> simp

theorem Bay.inSession_iff {x : Bay} : x.inSession = true ↔ ∃ y, x.session = some y := by
  simp [Bay.inSession, Option.isSome_iff_exists]

/-- A session end (R23) is what `SessionEnds` says. -/
theorem State.endSession_spec {s : State} {b : Fin 32} {x : Session} (h : (s.bay b).session = some x) :
    SessionEnds s (s.endSession b) b x := by
  have leave : ∃ s1, s.endSession b =
      ((((s1.setBoard b none).setPendingInc b none).setBay b (s.bay b).ended).mark b).evalSession ∧
      SameBut [.roster, .dset] s s1 ∧ NoticeSet.SameBut 0x0001 s.dset s1.dset ∧
      (∀ k e, x.disp = .rostered k → s.entry k = some e → s1.entry k = some (e.leave s.clock.minute x.delivered)) ∧
      (∀ k, x.disp ≠ .rostered k → s1.entry k = s.entry k) := by
    unfold State.endSession
    rw [h]
    simp only
    refine ⟨_, rfl, ?_⟩
    cases hd : x.disp with
    | rostered j =>
      simp only [State.leavePlugged]
      cases he : s.entry j with
      | none =>
        refine ⟨SameBut.refl _ s, NoticeSet.SameBut.refl _ _, ?_, fun _ _ => rfl⟩
        intro k e hk hke; cases hk; simp [he] at hke
      | some e =>
        refine ⟨(s.setEntry_frame j _).comp (State.evalOverdue_frame _) (by simp) (by simp), ?_, ?_, ?_⟩
        · exact NoticeSet.setCond_frame s.dset DFlag.overdue.bit _
        · intro k e' hk hke; cases hk; rw [he] at hke; cases hke; simp
        · intro k hk
          have : k ≠ j := fun e => hk (e ▸ rfl)
          simp [this]
    | courtesy | refused | duplicate =>
      exact ⟨SameBut.refl _ s, NoticeSet.SameBut.refl _ _, by simp, fun _ _ => rfl⟩
  obtain ⟨s1, e, hf, hd, hin, hout⟩ := leave
  rw [e]
  have fb : ∀ a, s1.bay a = s.bay a := fun a => by
    simp only [State.bay]; rw [show s1.bays = s.bays from hf .bays (by simp)]
  have fo : ∀ a, s1.board a = s.board a := fun a => by
    simp only [State.board]; rw [show s1.pub.board = s.pub.board from hf .board (by simp)]
  have fi : ∀ a, s1.pendingInc a = s.pendingInc a := fun a => by
    simp only [State.pendingInc]; rw [show s1.pub.pending = s.pub.pending from hf .increases (by simp)]
  have fm : ∀ a, s1.marked a = s.marked a := fun a => by
    simp only [State.marked]; rw [show s1.alloc.marks = s.alloc.marks from hf .marks (by simp)]
  set u := ((s1.setBoard b none).setPendingInc b none).setBay b (s.bay b).ended with hu
  have fu : SameBut [.roster, .dset, .board, .increases, .bays] s u :=
    (hf.mono (by simp)).trans (((s1.setBoard_frame b none).mono (by simp)).trans
      (((State.setPendingInc_frame _ b none).mono (by simp)).trans ((State.setBay_frame _ b _).mono (by simp))))
  have mb : ∀ a, (u.mark b).evalSession.bay a = u.bay a := fun a => by
    simp only [State.evalSession, State.mark]; split <;> simp [State.bay]
  obtain ⟨ef, ed, es⟩ := (u.mark b).evalSession_frame
  have mf := u.mark_frame b
  refine ⟨?_, ?_, ⟨?_, ?_⟩, ⟨?_, ?_⟩, ?_, ?_, ?_, ?_, ?_, ?_⟩
  · rw [mb, hu]; simp [Bay.ended]
  · intro c hc; rw [mb, hu]; simp [hc, fb]
  · rw [show (u.mark b).evalSession.board b = u.board b by
      simp only [State.evalSession, State.mark]; split <;> simp [State.board]]; simp [hu]
  · intro c hc
    rw [show (u.mark b).evalSession.board c = u.board c by
      simp only [State.evalSession, State.mark]; split <;> simp [State.board]]; simp [hu, hc, fo]
  · rw [show (u.mark b).evalSession.pendingInc b = u.pendingInc b by
      simp only [State.evalSession, State.mark]; split <;> simp [State.pendingInc]]; simp [hu]
  · intro c hc
    rw [show (u.mark b).evalSession.pendingInc c = u.pendingInc c by
      simp only [State.evalSession, State.mark]; split <;> simp [State.pendingInc]]; simp [hu, hc, fi]
  · intro k e' hk he'
    rw [show (u.mark b).evalSession.entry k = u.entry k by
      simp only [State.evalSession, State.mark]; split <;> simp [State.entry]]
    simpa [hu, Entry.leave] using hin k e' hk he'
  · intro k hk
    rw [show (u.mark b).evalSession.entry k = u.entry k by
      simp only [State.evalSession, State.mark]; split <;> simp [State.entry]]
    simpa [hu] using hout k hk
  · intro c
    rw [show (u.mark b).evalSession.marked c = (u.mark b).marked c by simp [State.evalSession], State.marked_mark]
    rw [show u.alloc.snap = s.alloc.snap from fu .pass (by simp)]
    simp [hu, fm]
  · have h1 : (u.mark b).dset = s1.dset := by
      rw [show (u.mark b).dset = u.dset from mf .dset (by simp)]; simp [hu]
    rw [h1] at ed
    exact hd.comp ed (by decide) (by decide)
  · have h1 : (u.mark b).sset = s.sset := by
      rw [show (u.mark b).sset = u.sset from mf .sset (by simp), show u.sset = s.sset from fu .sset (by simp)]
    rwa [h1] at es
  · exact (fu.mono (by simp)).trans ((mf.mono (by simp)).trans (ef.mono (by simp)))

/-- Where no session is open, nothing ends (R23). -/
theorem State.endSession_none {s : State} {b : Fin 32} (h : (s.bay b).session = none) : s.endSession b = s := by
  simp [State.endSession, h]

/-! ### Departure evaluation -/

theorem Entry.depart_eq_departed (e : Entry) (minute : Nat) : e.depart minute = departed minute e := by
  rcases e with ⟨tag, d, target, cls, barred, st, last⟩
  by_cases h : minute < d
  · simp [Entry.depart, departed, h, Nat.not_le.mpr h]
  · cases st <;> simp [Entry.depart, departed, h, Nat.not_lt.mp h]

/-- A departure evaluation (R32) acts on every entry once, and OVERDUE is handed over (R33). -/
theorem State.evaluateDepartures_spec (s : State) :
    (∀ j, s.evaluateDepartures.entry j = (s.entry j).map (departed s.clock.minute)) ∧
    NoticeSet.SameBut 0x0001 s.dset s.evaluateDepartures.dset ∧ SameBut [.roster, .dset] s s.evaluateDepartures := by
  refine ⟨fun j => ?_, ?_, ?_⟩
  · have : (fun e => Entry.depart e s.clock.minute) = departed s.clock.minute :=
      funext fun e => e.depart_eq_departed _
    simp [State.evaluateDepartures, this]
  · simp only [State.evaluateDepartures, State.evalOverdue_dset, State.mapEntries_dset]
    exact NoticeSet.setCond_frame _ _ _
  · refine SameBut.trans (t := s.mapEntries fun e => e.depart s.clock.minute) ?_ ((State.evalOverdue_frame _).mono (by simp))
    intro k hk; cases k <;> first | (simp only [Block.same, State.mapEntries]; done) | simp at hk

/-! ### Handling one buffered item -/

theorem State.take_frame (s : State) (p : Port) : SameBut [.ports] s (s.take p) := s.setPort_frame p _

@[simp] theorem State.take_port (s : State) (p q : Port) :
    (s.take p).port q = if q = p then { s.port p with buffers := (s.port p).buffers.tail } else s.port q := by
  simp [State.take]

theorem State.take_health (s : State) (p q : Port) : ((s.take p).port q).health = (s.port q).health := by
  by_cases h : q = p
  · subst h; simp
  · simp [h]

theorem State.offered_of_Offers {s : State} {p : Port} {x : Item} (h : s.Offers p x) : s.offered p = some x := by
  simp [State.offered, h.1, h.2.1, h.2.2.1]

theorem State.offered_of_not_ready {s : State} {p : Port} (h : s.handler p ≠ .ready) : s.offered p = none := by
  simp [State.offered, h]

/-- A message that passes checks 3 to 5 of R106 is handled by the rule of its kind. -/
theorem State.handle_pass {s : State} {p : Port} {k : Kind} {m : Msg} (body : Msg → State → State × Option Msg)
    (h : s.Takes p k m) (ha : k.accepts p = true) (hl : k.lengthOk m.payload.length = true) (hu : k.unitOk m.unit = true) :
    s.handle k p body = (body m (s.take p)).1.replyWith p (body m (s.take p)).2 := by
  simp [State.handle, State.offered_of_Offers h.1, h.2, Kind.check, ha, hl, hu]

/-- A message that fails a check is answered with that flag alone, or dropped (R106). -/
theorem State.handle_fail {s : State} {p : Port} {k : Kind} {m : Msg} {f : Flag}
    (body : Msg → State → State × Option Msg) (h : s.Takes p k m) (hc : k.check p m = k.fail f) :
    s.handle k p body = if k.isRequest then (s.take p).sends p (m.answer f.result) else s.take p := by
  have hd : ((s.take p).port p).health ≠ .detached := by rw [State.take_health]; exact h.1.2.2.2
  simp only [State.handle, State.offered_of_Offers h.1, h.2, hc, Kind.fail, if_true]
  by_cases hr : k.isRequest = true
  · simp [hr, State.reply_eq_sends _ hd]
  · simp [hr]

/-- A handler that offers no message of the kind leaves everything as it is (log 3). -/
theorem State.handle_waits {s : State} {p : Port} {k : Kind} (body : Msg → State → State × Option Msg)
    (h : ∀ m, s.offered p = some (.message m) → m.kind ≠ k.code) : s.handle k p body = s := by
  unfold State.handle
  cases e : s.offered p with
  | none => rfl
  | some x => cases x with
    | failed _ _ => rfl
    | message m => simp [h m e]

end Sys2Proof.Machine
end

