-- ==== Sys2Proof/Laws/Rounds.lean ====
section
/-!
SUPPORT. What a walk over the bays, a round start and an early-round request can do (chapter 5).
-/
namespace Sys2Proof.Machine

/-! ### Walks -/

/-- What holds of an empty prefix and is carried from each prefix to the next holds after the whole walk. -/
theorem foldl_prefix {σ α : Type} {f : σ → α → σ} {P : List α → σ → Prop} {s : σ} (h0 : P [] s)
    (hs : ∀ l a t, a ∉ l → P l t → P (l ++ [a]) (f t a)) : ∀ l : List α, l.Nodup → P l (l.foldl f s) := by
  intro l
  induction l using List.reverseRecOn with
  | nil => intro _; exact h0
  | append_singleton l a ih =>
    intro h
    rw [List.nodup_append] at h
    rw [List.foldl_append]
    exact hs l a _ (fun ha => h.2.2 a ha a (by simp) rfl) (ih h.1)

theorem allBays_nodup : allBays.Nodup := List.nodup_finRange 32

@[simp] theorem mem_allBays (b : Fin 32) : b ∈ allBays := List.mem_finRange b

theorem baysOf_nodup (c : Fin 4) : (baysOf c).Nodup := by revert c; decide

theorem mem_baysOf {c : Fin 4} {b : Fin 32} : b ∈ baysOf c ↔ cabinetOf b = c := by revert c b; decide

/-! ### Frames read record by record -/

theorem SameBut.bay {l : List Block} {s t : State} (h : SameBut l s t) (hk : Block.bays ∉ l) (b : Fin 32) :
    t.bay b = s.bay b := by simp only [State.bay]; rw [show t.bays = s.bays from h .bays hk]

theorem SameBut.entry {l : List Block} {s t : State} (h : SameBut l s t) (hk : Block.roster ∉ l) (k : Fin 64) :
    t.entry k = s.entry k := by simp only [State.entry]; rw [show t.roster = s.roster from h .roster hk]

theorem SameBut.port {l : List Block} {s t : State} (h : SameBut l s t) (hk : Block.ports ∉ l) (p : Port) :
    t.port p = s.port p := by simp only [State.port]; rw [show t.ports = s.ports from h .ports hk]

theorem SameBut.cabinet {l : List Block} {s t : State} (h : SameBut l s t) (hk : Block.cabinets ∉ l) (c : Fin 4) :
    t.cabinet c = s.cabinet c := by
  simp only [State.cabinet]; rw [show t.cabinets = s.cabinets from h .cabinets hk]

theorem SameBut.boardAt {l : List Block} {s t : State} (h : SameBut l s t) (hk : Block.board ∉ l) (b : Fin 32) :
    t.board b = s.board b := by simp only [State.board]; rw [show t.pub.board = s.pub.board from h .board hk]

theorem SameBut.increaseAt {l : List Block} {s t : State} (h : SameBut l s t) (hk : Block.increases ∉ l) (b : Fin 32) :
    t.pendingInc b = s.pendingInc b := by
  simp only [State.pendingInc]; rw [show t.pub.pending = s.pub.pending from h .increases hk]

theorem SameBut.markAt {l : List Block} {s t : State} (h : SameBut l s t) (hk : Block.marks ∉ l) (b : Fin 32) :
    t.marked b = s.marked b := by
  simp only [State.marked]; rw [show t.alloc.marks = s.alloc.marks from h .marks hk]

theorem SameBut.present {l : List Block} {s t : State} (h : SameBut l s t) (hk : Block.straps ∉ l) (p : Port) :
    t.present p = s.present p := by
  cases p <;> simp only [State.present]; rw [show t.straps = s.straps from h .straps hk]

/-! ### The SATISFIED check (R21) -/

theorem targetOf_congr {s t : State} (h : ∀ k, t.entry k = s.entry k) (d : Disposition) :
    t.targetOf d = s.targetOf d := by
  cases d <;> simp [State.targetOf, h]

/-- The SATISFIED check of a METER (R21): an ACTIVE bay in session whose target is reached becomes SATISFIED. -/
theorem State.satisfy_spec {s : State} {b : Fin 32} {x : Session} (h : (s.bay b).session = some x) :
    let reached := x.phase = .active ∧ (s.targetOf x.disp).any (fun target => target ≤ x.delivered) = true
    (s.satisfy b).bay b = { s.bay b with occ := .session { x with phase := if reached then .satisfied else x.phase } } ∧
    (∀ a, a ≠ b → (s.satisfy b).bay a = s.bay a) ∧
    (reached → (s.satisfy b).dset.pending &&& DFlag.satisfied.bit ≠ 0) ∧
    NoticeSet.SameBut 0x0010 s.dset (s.satisfy b).dset ∧ SameBut [.bays, .dset] s (s.satisfy b) := by
  intro reached
  have back : s.bay b = { s.bay b with occ := .session x } := by rw [← Bay.session_eq_some.mp h]
  by_cases hr : reached
  · obtain ⟨hp, ht⟩ := hr
    have hr : reached := ⟨hp, ht⟩
    rcases Option.eq_none_or_eq_some (s.targetOf x.disp) with e | ⟨target, e⟩
    · simp [e] at ht
    · have hd : target ≤ x.delivered := by simpa [e] using ht
      have eq : s.satisfy b = (s.setBay b { s.bay b with occ := .session { x with phase := .satisfied } }).raiseD .satisfied := by
        simp only [State.satisfy, h, e, hp, hd, and_self, if_true]
      rw [eq, if_pos hr]
      refine ⟨by simp, fun a ha => by simp [ha], ?_, NoticeSet.raise_frame s.dset DFlag.satisfied.bit,
        (s.setBay_frame b _).comp (State.raiseD_frame _ _) (by simp) (by simp)⟩
      intro _
      change (s.dset.raise DFlag.satisfied.bit).pending &&& DFlag.satisfied.bit ≠ 0
      rw [NoticeSet.raise_pending]; decide
  · have eq : s.satisfy b = s := by
      unfold State.satisfy
      simp only [h]
      rcases Option.eq_none_or_eq_some (s.targetOf x.disp) with e | ⟨target, e⟩
      · simp only [e]
      · simp only [e]
        have : ¬ (x.phase = .active ∧ target ≤ x.delivered) := fun hc => hr ⟨hc.1, by simpa [e] using hc.2⟩
        simp only [if_neg this]
    rw [eq, if_neg hr]
    exact ⟨back, fun _ _ => rfl, fun h' => absurd h' hr, NoticeSet.SameBut.refl _ _, SameBut.refl _ s⟩

/-- A bay after the round-start check of R21 against the entries of `s`. -/
def State.checked (s : State) (x : Bay) : Bay :=
  { x with occ := match x.occ with
    | .session y => .session { y with phase := s.roundPhase y }
    | o => o }

theorem State.checkBay_spec (s : State) (b : Fin 32) :
    (∀ a, ((s.unsatisfy b).satisfy b).bay a = if a = b then s.checked (s.bay b) else s.bay a) ∧
    SameBut [.bays, .dset] s ((s.unsatisfy b).satisfy b) ∧
    NoticeSet.SameBut 0x0010 s.dset ((s.unsatisfy b).satisfy b).dset ∧
    (s.dset.pending &&& DFlag.satisfied.bit ≠ 0 →
      ((s.unsatisfy b).satisfy b).dset.pending &&& DFlag.satisfied.bit ≠ 0) ∧
    (∀ x, (s.bay b).session = some x → x.phase = .active → s.roundPhase x = .satisfied →
      ((s.unsatisfy b).satisfy b).dset.pending &&& DFlag.satisfied.bit ≠ 0) := by
  have same : ∀ t : State, t = s → s.checked (s.bay b) = s.bay b →
      (∀ x, (s.bay b).session = some x → ¬ (x.phase = .active ∧ s.roundPhase x = .satisfied)) →
      (∀ a, t.bay a = if a = b then s.checked (s.bay b) else s.bay a) ∧
      SameBut [.bays, .dset] s t ∧ NoticeSet.SameBut 0x0010 s.dset t.dset ∧
      (s.dset.pending &&& DFlag.satisfied.bit ≠ 0 → t.dset.pending &&& DFlag.satisfied.bit ≠ 0) ∧
      (∀ x, (s.bay b).session = some x → x.phase = .active → s.roundPhase x = .satisfied →
        t.dset.pending &&& DFlag.satisfied.bit ≠ 0) := by
    rintro t rfl he hn
    refine ⟨fun a => ?_, SameBut.refl _ _, NoticeSet.SameBut.refl _ _, id, ?_⟩
    · by_cases e : a = b
      · subst e; simp [he]
      · simp [e]
    · intro x hx h1 h2; exact absurd ⟨h1, h2⟩ (hn x hx)
  cases hs : (s.bay b).session with
  | none =>
    have e1 : s.unsatisfy b = s := by simp only [State.unsatisfy, hs]
    have e2 : s.satisfy b = s := by simp only [State.satisfy, hs]
    rw [e1, e2, ← hs]
    refine same s rfl ?_ (by simp [hs])
    generalize s.bay b = z at hs
    rcases z with ⟨o, _, _, _, _, _, _, _, _⟩
    cases o <;> first | rfl | simp [Bay.session] at hs
  | some x =>
    have ho := Bay.session_eq_some.mp hs
    cases ht : s.targetOf x.disp with
    | none =>
      have e1 : s.unsatisfy b = s := by simp only [State.unsatisfy, hs, ht]
      have e2 : s.satisfy b = s := by simp only [State.satisfy, hs, ht]
      have hp : s.roundPhase x = x.phase := by simp only [State.roundPhase, ht]
      rw [e1, e2, ← hs]
      refine same s rfl ?_ ?_
      · simp only [State.checked, ho, hp]; rw [← ho]
      · intro y hy; rw [hs] at hy; cases hy; rw [hp]; rintro ⟨h1, h2⟩; rw [h1] at h2; cases h2
    | some target =>
      by_cases h1 : x.phase = .active ∧ target ≤ x.delivered
      · have e1 : s.unsatisfy b = s := by simp [State.unsatisfy, hs, ht, h1.1]
        have hp : s.roundPhase x = .satisfied := by simp [State.roundPhase, ht, h1]
        have e2 : s.satisfy b = (s.setBay b (s.checked (s.bay b))).raiseD .satisfied := by
          simp [State.satisfy, hs, ht, h1, State.checked, ho, hp]
        rw [e1, e2]
        refine ⟨fun a => by simp, ?_, ?_, ?_, ?_⟩
        · exact (s.setBay_frame b _).comp (State.raiseD_frame _ _) (by simp) (by simp)
        · exact NoticeSet.raise_frame s.dset DFlag.satisfied.bit
        · intro _; rw [show ((s.setBay b (s.checked (s.bay b))).raiseD .satisfied).dset =
            s.dset.raise DFlag.satisfied.bit from rfl, NoticeSet.raise_pending]; decide
        · intro _ _ _ _; rw [show ((s.setBay b (s.checked (s.bay b))).raiseD .satisfied).dset =
            s.dset.raise DFlag.satisfied.bit from rfl, NoticeSet.raise_pending]; decide
      · by_cases h2 : x.phase = .satisfied ∧ x.delivered < target
        · have hp : s.roundPhase x = .active := by simp [State.roundPhase, ht, h2]
          have e1 : s.unsatisfy b = s.setBay b (s.checked (s.bay b)) := by
            simp [State.unsatisfy, hs, ht, h2, State.checked, ho, hp]
          have e2 : (s.setBay b (s.checked (s.bay b))).satisfy b = s.setBay b (s.checked (s.bay b)) := by
            have e3 : ((s.setBay b (s.checked (s.bay b))).bay b).session = some { x with phase := .active } := by
              simp [State.checked, ho, hp, Bay.session]
            have e4 : (s.setBay b (s.checked (s.bay b))).targetOf x.disp = some target := by
              rw [targetOf_congr (s := s) (by simp)]; exact ht
            simp only [State.satisfy, e3, e4]
            rw [if_neg]; simp; exact h2.2
          rw [e1, e2]
          refine ⟨fun a => by simp, (s.setBay_frame b _).mono (by simp), NoticeSet.SameBut.refl _ _, ?_, ?_⟩
          · intro h; simpa using h
          · intro y hy hya; simp only [Option.some.injEq] at hy; subst hy; rw [h2.1] at hya; cases hya
        · have e1 : s.unsatisfy b = s := by simp only [State.unsatisfy, hs, ht, if_neg h2]
          have e2 : s.satisfy b = s := by simp only [State.satisfy, hs, ht, if_neg h1]
          have hp : s.roundPhase x = x.phase := by simp only [State.roundPhase, ht, if_neg h1, if_neg h2]
          rw [e1, e2, ← hs]
          refine same s rfl ?_ ?_
          · simp only [State.checked, ho, hp]; rw [← ho]
          · intro y hy; rw [hs] at hy; cases hy; rw [hp]; rintro ⟨h3, h4⟩; rw [h3] at h4; cases h4

theorem State.roundPhase_congr {s t : State} (h : ∀ k, t.entry k = s.entry k) (x : Session) :
    t.roundPhase x = s.roundPhase x := by unfold State.roundPhase; rw [targetOf_congr h]

theorem State.checked_congr {s t : State} (h : ∀ k, t.entry k = s.entry k) (x : Bay) : t.checked x = s.checked x := by
  unfold State.checked; cases x.occ <;> simp [State.roundPhase_congr h]

/-- The SATISFIED check of a round start (R21): every bay is checked once, against the roster as it stands. -/
theorem State.checkSatisfied_spec (s : State) :
    (∀ b, s.checkSatisfied.bay b = s.checked (s.bay b)) ∧ SameBut [.bays, .dset] s s.checkSatisfied ∧
    NoticeSet.SameBut 0x0010 s.dset s.checkSatisfied.dset ∧
    ((∃ b x, (s.bay b).session = some x ∧ x.phase = .active ∧ s.roundPhase x = .satisfied) →
      s.checkSatisfied.dset.pending &&& DFlag.satisfied.bit ≠ 0) := by
  have key := foldl_prefix (f := fun t b => (State.unsatisfy t b).satisfy b) (s := s)
    (P := fun l t => (∀ b, t.bay b = if b ∈ l then s.checked (s.bay b) else s.bay b) ∧ SameBut [.bays, .dset] s t ∧
      NoticeSet.SameBut 0x0010 s.dset t.dset ∧
      ((∃ b x, b ∈ l ∧ (s.bay b).session = some x ∧ x.phase = .active ∧ s.roundPhase x = .satisfied) →
        t.dset.pending &&& DFlag.satisfied.bit ≠ 0))
    ⟨by simp, SameBut.refl _ s, NoticeSet.SameBut.refl _ _, by simp⟩ ?_ allBays allBays_nodup
  · obtain ⟨h1, h2, h3, h4⟩ := key
    simp only [State.checkSatisfied]
    refine ⟨fun b => by simpa using h1 b, h2, h3, ?_⟩
    rintro ⟨b, x, h⟩; exact h4 ⟨b, x, mem_allBays b, h⟩
  · rintro l b t hb ⟨h1, h2, h3, h4⟩
    obtain ⟨g1, g2, g3, g4, g5⟩ := t.checkBay_spec b
    have hbay : t.bay b = s.bay b := by rw [h1 b, if_neg hb]
    have he : ∀ k, t.entry k = s.entry k := h2.entry (by simp)
    refine ⟨fun a => ?_, h2.trans g2, h3.trans g3, ?_⟩
    · rw [g1 a]
      by_cases e : a = b
      · subst e; simp [hbay, State.checked_congr he]
      · simp [e, h1 a]
    · rintro ⟨a, x, ha, hx, hp, hr⟩
      rcases List.mem_append.mp ha with hl | hl
      · exact g4 (h4 ⟨a, x, hl, hx, hp, hr⟩)
      · obtain rfl : a = b := by simpa using hl
        exact g5 x (by rw [hbay]; exact hx) hp (by rw [State.roundPhase_congr he]; exact hr)

/-! ### Round start (R79) -/

theorem State.endRound_frame (s : State) : SameBut [.increases, .slotTimes] s s.endRound := by
  intro k hk; cases k <;> first | rfl | simp at hk

theorem State.endRound_pendingInc (s : State) (b : Fin 32) : s.endRound.pendingInc b = none := s.pendingInc_dropIncreases b

theorem State.mapCabinets_frame (s : State) (f : Fin 4 → Cabinet → Cabinet) : SameBut [.cabinets] s (s.mapCabinets f) := by
  intro k hk; cases k <;> first | rfl | simp at hk

theorem State.mapBays_frame (s : State) (f : Fin 32 → Bay → Bay) : SameBut [.bays] s (s.mapBays f) := by
  intro k hk; cases k <;> first | (simp only [Block.same, State.mapBays]; done) | simp at hk

theorem State.mapPorts_frame (s : State) (f : LinkPort → LinkPort) : SameBut [.ports] s (s.mapPorts f) := by
  intro k hk; cases k <;> first | rfl | simp at hk

theorem State.sampleFreshness_spec (s : State) :
    (∀ c, s.sampleFreshness.cabinet c =
      if s.present (.c c) then
        { s.cabinet c with
          staleRounds := if (s.cabinet c).roundEnd then 0 else min 255 ((s.cabinet c).staleRounds + 1)
          roundEnd := false }
      else s.cabinet c) ∧
    NoticeSet.SameBut 0x0008 s.sset s.sampleFreshness.sset ∧ SameBut [.cabinets, .sset] s s.sampleFreshness := by
  refine ⟨fun c => by simp [State.sampleFreshness], ?_, ?_⟩
  · simp only [State.sampleFreshness, State.evalStaleCabinet_sset, State.mapCabinets_sset]
    exact NoticeSet.setCond_frame _ _ _
  · exact (s.mapCabinets_frame _).comp (State.evalStaleCabinet_frame _) (by simp) (by simp)

theorem State.countUnconfirmed_spec (s : State) :
    (∀ b, s.countUnconfirmed.bay b = (s.bay b).countUnconfirmed) ∧
    NoticeSet.SameBut 0x0020 s.sset s.countUnconfirmed.sset ∧ SameBut [.bays, .sset] s s.countUnconfirmed := by
  refine ⟨fun b => by simp [State.countUnconfirmed], ?_, ?_⟩
  · simp only [State.countUnconfirmed, State.evalUnconfirmed_sset, State.mapBays_sset]
    exact NoticeSet.setCond_frame _ _ _
  · exact (s.mapBays_frame _).comp (State.evalUnconfirmed_frame _) (by simp) (by simp)

theorem State.stepEnvelope_spec (s : State) :
    s.stepEnvelope.env = { s.env with rounds := min 3 (s.env.rounds + 1), stale := s.env.stale || 2 ≤ s.env.rounds } ∧
    NoticeSet.SameBut 0x0011 s.sset s.stepEnvelope.sset ∧ SameBut [.env, .sset] s s.stepEnvelope := by
  refine ⟨?_, ?_, ?_⟩
  · have : (min 3 (s.env.rounds + 1) == 3) = decide (2 ≤ s.env.rounds) := by
      rw [Bool.eq_iff_iff]; simp
    simp [State.stepEnvelope, this]
  · simp only [State.stepEnvelope, State.evalExceeded_sset, State.evalLoadStale_sset]
    exact (NoticeSet.setCond_frame _ _ _).comp (NoticeSet.setCond_frame _ _ _) (by decide) (by decide)
  · refine SameBut.comp (l₁ := [.env]) ?_ ((State.evalLoadStale_frame _).trans (State.evalExceeded_frame _)) (by simp)
      (by simp)
    intro k hk; cases k <;> first | rfl | simp at hk

theorem State.beginPass_spec (s : State) (fresh : Vector Bool 4) :
    (s.beginPass fresh).alloc.snap = some (s.snapshot fresh) ∧
    (s.beginPass fresh).alloc.timer = some s.settings.roundLength ∧
    (s.beginPass fresh).pub.slotTimes = slotTimesOf s.settings.roundLength ∧
    SameBut [.pass, .timer, .slotTimes] s (s.beginPass fresh) := by
  refine ⟨rfl, rfl, rfl, ?_⟩
  intro k hk; cases k <;> first | (simp only [Block.same, State.beginPass]; done) | simp at hk

theorem State.snapshot_at (s : State) (fresh : Vector Bool 4) (b : Fin 32) :
    (s.snapshot fresh).at b = s.snapBay fresh b := by simp [State.snapshot, Snapshot.at]

theorem State.snapBay_entry (s : State) (fresh : Vector Bool 4) (b : Fin 32) :
    (s.snapBay fresh b).entry = ((s.bay b).session).bind s.linkedEntry := by
  simp only [State.snapBay]
  cases (s.bay b).session with
  | none => rfl
  | some x => cases h : x.disp <;> simp only [Option.bind_some, State.linkedEntry, h]

theorem State.freshness_at (s : State) (c : Fin 4) :
    s.freshness[c] = true ↔ s.present (.c c) = false ∨ (s.cabinet c).roundEnd = true := by
  simp [State.freshness]

/-- The linked entry reads the disposition of a bay alone. -/
theorem State.linked_checked (s : State) (x : Bay) : (s.checked x).session.bind s.linkedEntry = x.session.bind s.linkedEntry := by
  rcases x with ⟨o, _, _, _, _, _, _, _, _⟩
  cases o <;> rfl

/-- A round start (R79) is what `RoundStarts` says. -/
theorem State.roundStart_spec (s : State) : RoundStarts s s.roundStart := by
  have f1 := s.endRound_frame
  have i1 := s.endRound_pendingInc
  obtain ⟨c2, n2, f2⟩ := s.endRound.sampleFreshness_spec
  obtain ⟨b3, n3, f3⟩ := s.endRound.sampleFreshness.countUnconfirmed_spec
  obtain ⟨b4, f4, d4, p4⟩ := s.endRound.sampleFreshness.countUnconfirmed.checkSatisfied_spec
  obtain ⟨e5, n5, f5⟩ := s.endRound.sampleFreshness.countUnconfirmed.checkSatisfied.stepEnvelope_spec
  obtain ⟨a6, t6, s6, f6⟩ :=
    s.endRound.sampleFreshness.countUnconfirmed.checkSatisfied.stepEnvelope.beginPass_spec s.freshness
  change RoundStarts s (s.endRound.sampleFreshness.countUnconfirmed.checkSatisfied.stepEnvelope.beginPass s.freshness)
  generalize s.endRound = s1 at *
  generalize s1.sampleFreshness = s2 at *
  generalize s2.countUnconfirmed = s3 at *
  generalize s3.checkSatisfied = s4 at *
  generalize s4.stepEnvelope = s5 at *
  generalize hs6 : s5.beginPass s.freshness = s6' at *
  have F2 : SameBut [.increases, .slotTimes, .cabinets, .sset] s s2 := f1.comp f2 (by simp) (by simp)
  have F3 : SameBut [.increases, .slotTimes, .cabinets, .sset, .bays] s s3 := F2.comp f3 (by simp) (by simp)
  have F4 : SameBut [.increases, .slotTimes, .cabinets, .sset, .bays, .dset] s s4 := F3.comp f4 (by simp) (by simp)
  have F5 : SameBut [.increases, .slotTimes, .cabinets, .sset, .bays, .dset, .env] s s5 := F4.comp f5 (by simp) (by simp)
  have he : ∀ k, s3.entry k = s.entry k := F3.entry (by simp)
  have hb3 : ∀ b, s3.bay b = (s.bay b).countUnconfirmed := fun b => by rw [b3, F2.bay (by simp)]
  have hses : ∀ b, (s3.bay b).session = (s.bay b).session := fun b => by rw [hb3]; rfl
  have hb5 : ∀ b, s5.bay b = s.checked (s.bay b).countUnconfirmed := fun b => by
    rw [f5.bay (by simp), b4, hb3, State.checked_congr he]
  have hset : s5.settings = s.settings := F5 .settings (by simp)
  refine ⟨?_, ?_, ?_, ?_, ?_, ?_, ?_, ?_, ?_, ?_, ?_⟩
  · intro b
    rw [f6.increaseAt (by simp), f5.increaseAt (by simp), f4.increaseAt (by simp), f3.increaseAt (by simp),
      f2.increaseAt (by simp), i1]
  · intro c
    rw [f6.cabinet (by simp), f5.cabinet (by simp), f4.cabinet (by simp), f3.cabinet (by simp), c2,
      f1.cabinet (by simp), f1.present (by simp)]
  · intro b
    rw [f6.bay (by simp), hb5]
    cases h : (s.bay b).occ <;> simp only [State.checked, Bay.countUnconfirmed, h]
  · rw [show s6'.env = s5.env from f6 .env (by simp), e5, show s4.env = s.env from F4 .env (by simp)]
  · refine ⟨s5.snapshot s.freshness, a6, ?_, ?_, ?_, ?_, ?_⟩
    · exact congrArg Clock.minute (F5 .clock (by simp) : s5.clock = s.clock)
    · exact congrArg Settings.guard hset
    · exact congrArg Settings.pminInForce hset
    · rw [show s6'.env = s5.env from f6 .env (by simp)]; rfl
    · intro b
      rw [State.snapshot_at]
      refine ⟨?_, ?_, ?_, ?_⟩
      · rw [f6.bay (by simp)]; rfl
      · rw [← F5.port (by simp)]; rfl
      · exact s.freshness_at (cabinetOf b)
      · rw [State.snapBay_entry, hb5]
        have hl : s5.linkedEntry = s.linkedEntry := by
          funext x; unfold State.linkedEntry
          split
          · exact F5.entry (by simp) _
          · rfl
        rw [hl, State.linked_checked]; rfl
  · rw [s6, hset]; rfl
  · rw [t6, hset]
  · rintro ⟨b, x, hx, hp, hr⟩
    rw [show s6'.dset = s5.dset from f6 .dset (by simp), show s5.dset = s4.dset from f5 .dset (by simp)]
    exact p4 ⟨b, x, by rw [hses]; exact hx, hp, by rw [State.roundPhase_congr he]; exact hr⟩
  · rw [show s6'.dset = s5.dset from f6 .dset (by simp), show s5.dset = s4.dset from f5 .dset (by simp),
      ← show s3.dset = s.dset from F3 .dset (by simp)]
    exact d4
  · rw [show s6'.sset = s5.sset from f6 .sset (by simp), ← show s1.sset = s.sset from f1 .sset (by simp)]
    rw [show s4.sset = s3.sset from f4 .sset (by simp)] at n5
    exact ((n2.comp n3 (b := 0x0028) (by decide) (by decide)).comp n5 (by decide) (by decide))
  · exact (F5.mono (by simp)).trans (f6.mono (by simp))

/-- An early-round request (R78) is what `EarlyRound` says. -/
theorem State.requestEarly_spec (s : State) : EarlyRound s s.requestEarly := by
  unfold EarlyRound State.requestEarly
  split
  · rfl
  · split
    · rfl
    · exact s.roundStart_spec

end Sys2Proof.Machine
end

