-- ==== Sys2Proof/Laws/Links.lean ====
section
/-!
SUPPORT. What detach, rejoin, an accepted and a rejected message can do (chapters 6 and 7), and how the receiver tests read a
character list.
-/
namespace Sys2Proof.Machine

/-! ### Detach and rejoin -/

theorem mem_allPorts (p : Port) : p ∈ allPorts := by
  cases p with
  | d | s => decide
  | c n => revert n; decide

theorem State.detachCabinet_spec (s : State) (c : Fin 4) :
    (∀ b, (s.detachCabinet c).bay b = if cabinetOf b = c then { s.bay b with reachable := false } else s.bay b) ∧
    (∀ b, (s.detachCabinet c).board b = if cabinetOf b = c then none else s.board b) ∧
    (∀ b, (s.detachCabinet c).pendingInc b = if cabinetOf b = c then none else s.pendingInc b) ∧
    (∀ d, (s.detachCabinet c).cabinet d = if d = c then { s.cabinet d with silence := none, roundEnd := false }
      else s.cabinet d) ∧
    SameBut [.bays, .board, .increases, .cabinets] s (s.detachCabinet c) := by
  refine ⟨fun b => ?_, fun b => ?_, fun b => ?_, fun d => ?_, ?_⟩
  · simp [State.detachCabinet, State.setCabinet, State.mapBays, State.bay]
  · simp [State.detachCabinet, State.board]
  · simp [State.detachCabinet, State.pendingInc]
  · by_cases e : d = c
    · subst e; simp [State.detachCabinet, State.setCabinet, State.mapBays, State.cabinet]
    · have : ¬ c.val = d.val := fun h => e (Fin.ext h.symm)
      simp [State.detachCabinet, State.setCabinet, State.mapBays, State.cabinet, e, this]
  · intro k hk; cases k <;> first | (simp only [Block.same, State.detachCabinet, State.setCabinet, State.mapBays]; done) | simp at hk

/-- A detach (R118, R119) is what `Detaches` says. -/
theorem State.detach_spec (s : State) (p : Port) : Detaches s (s.detach p) p (s.port p).rx := by
  have hp : ∀ q, (s.setPort p (s.port p).detached).port q = if q = p then (s.port p).detached else s.port q :=
    s.port_setPort p _
  have f1 := s.setPort_frame p (s.port p).detached
  have key : ∀ t : State, t.ports = (s.setPort p (s.port p).detached).ports →
      (s.detach p) = t.evalLinkTrouble → t.sset = s.sset →
      (∀ b, t.bay b = if p = .c (cabinetOf b) then { s.bay b with reachable := false } else s.bay b) →
      (∀ b, t.board b = if p = .c (cabinetOf b) then none else s.board b) →
      (∀ b, t.pendingInc b = if p = .c (cabinetOf b) then none else s.pendingInc b) →
      (∀ c, t.cabinet c = if p = .c c then { s.cabinet c with silence := none, roundEnd := false } else s.cabinet c) →
      SameBut [.ports, .bays, .board, .increases, .cabinets] s t → Detaches s (s.detach p) p (s.port p).rx := by
    intro t ht e hs hb ho hi hc hf
    rw [e]
    have hq : ∀ q, t.port q = if q = p then (s.port p).detached else s.port q := fun q => by
      rw [← hp q]; simp only [State.port, ht]
    refine ⟨by simp [hq, LinkPort.detached], fun q hn => by simp [hq, hn], by simpa using hb, by simpa using ho,
      by simpa using hi, by simpa using hc, ?_, hf.comp (State.evalLinkTrouble_frame _) (by simp) (by simp)⟩
    rw [State.evalLinkTrouble_sset, hs]
    congr 1
    rw [State.linkTroubleStands, List.any_eq_true]
    exact ⟨p, mem_allPorts p, by simp [hq, LinkPort.detached]⟩
  cases p with
  | c n =>
    obtain ⟨h1, h2, h3, h4, h5⟩ := (s.setPort (.c n) (s.port (.c n)).detached).detachCabinet_spec n
    refine key _ (h5 .ports (by simp)) rfl ((h5 .sset (by simp)).trans rfl) ?_ ?_ ?_ ?_ (f1.comp h5 (by simp) (by simp))
    · intro b; rw [h1, State.setPort_bay]; simp [eq_comm]
    · intro b; rw [h2, State.setPort_board]; simp [eq_comm]
    · intro b; rw [h3, State.setPort_pendingInc]; simp [eq_comm]
    · intro c; rw [h4, State.setPort_cabinet]; simp [eq_comm]
  | d | s =>
    exact key _ rfl rfl rfl (by simp) (by simp) (by simp) (by simp) (f1.mono (by simp))

theorem State.restartSilence_spec (s : State) (c : Fin 4) :
    (∀ d, (s.restartSilence c).cabinet d = if d = c ∧ s.mode ≠ .configure then
      { s.cabinet d with silence := some (2 * s.settings.roundLength) } else s.cabinet d) ∧
    SameBut [.cabinets] s (s.restartSilence c) := by
  unfold State.restartSilence
  by_cases h : s.mode = .configure
  · simp [h, SameBut.refl]
  · refine ⟨fun d => ?_, ?_⟩
    · by_cases e : d = c
      · subst e; simp [h]
      · simp [h, e]
    · simp only [h, if_false]; exact s.setCabinet_frame _ _

/-- A rejoin (R122) is what `Rejoins` says. -/
theorem State.rejoin_spec (s : State) (p : Port) : Rejoins s (s.rejoin p) p (s.port p).rx := by
  have f1 := s.setPort_frame p { s.port p with errors := 0, health := .sound, rejoin := 0 }
  have hp := s.port_setPort p { s.port p with errors := 0, health := .sound, rejoin := 0 }
  have key : ∀ t : State, (∀ q, t.port q = (s.setPort p { s.port p with errors := 0, health := .sound, rejoin := 0 }).port q) →
      s.rejoin p = t.evalLinkTrouble → t.sset = s.sset →
      (∀ b, t.bay b = if p = .c (cabinetOf b) then { s.bay b with reachable := true, resync := true } else s.bay b) →
      (∀ c, t.cabinet c =
        if p = .c c ∧ s.mode ≠ .configure then { s.cabinet c with silence := some (2 * s.settings.roundLength) }
        else s.cabinet c) →
      SameBut [.ports, .bays, .cabinets] s t → Rejoins s (s.rejoin p) p (s.port p).rx := by
    intro t ht e hs hb hc hf
    rw [e]
    refine ⟨by simp [ht], fun q hn => by simp [ht, hn], by simpa using hb, by simpa using hc, ?_,
      hf.comp (State.evalLinkTrouble_frame _) (by simp) (by simp)⟩
    rw [State.evalLinkTrouble_sset, hs]
    rfl
  cases p with
  | c n =>
    set s1 := s.setPort (.c n) { s.port (.c n) with errors := 0, health := .sound, rejoin := 0 } with hs1
    obtain ⟨h1, h2⟩ := (s1.mapBays fun b x => if cabinetOf b = n then { x with reachable := true, resync := true }
      else x).restartSilence_spec n
    have fb := s1.mapBays_frame fun b x => if cabinetOf b = n then { x with reachable := true, resync := true } else x
    refine key _ (fun q => ?_) rfl ?_ ?_ ?_ ((f1.comp fb (l := [.ports, .bays]) (by simp) (by simp)).comp h2 (by simp) (by simp))
    · rw [h2.port (by simp), fb.port (by simp)]
    · exact (h2 .sset (by simp)).trans (fb .sset (by simp))
    · intro b; rw [h2.bay (by simp)]; simp [hs1, eq_comm]
    · intro c; rw [h1]; simp [hs1, eq_comm]
  | d | s =>
    exact key _ (fun _ => rfl) rfl rfl (by simp) (by simp) (f1.mono (by simp))

/-! ### Outcomes (R116) -/

/-- A rejection on a port that neither is nor becomes DETACHED. -/
structure Rejects (s t : State) (p : Port) : Prop where
  port : t.port p = { s.port p with errors := (s.port p).errors + 8, health := healthOf ((s.port p).errors + 8) }
  ports : ∀ q, q ≠ p → t.port q = s.port q
  trouble : t.sset = s.sset.setCond SFlag.linkTrouble.bit t.linkTroubleStands
  frame : SameBut [.ports, .sset] s t

theorem State.reject_spec {s : State} {p : Port} (h : (s.port p).health ≠ .detached) (he : (s.port p).errors + 8 < 255) :
    Rejects s (s.reject p) p := by
  have e : s.reject p = (s.setPort p { s.port p with errors := (s.port p).errors + 8
                                                     health := healthOf ((s.port p).errors + 8) }).evalLinkTrouble := by
    simp only [State.reject, h, if_false, Nat.not_le.mpr he]
  rw [e]
  exact ⟨by simp, fun q hq => by simp [hq], rfl, (s.setPort_frame p _).comp (State.evalLinkTrouble_frame _) (by simp)
    (by simp)⟩

theorem State.reject_detaches {s : State} {p : Port} (h : (s.port p).health ≠ .detached) (he : 255 ≤ (s.port p).errors + 8) :
    s.reject p = s.detach p := by simp only [State.reject, h, if_false, he, if_true]

theorem State.reject_detached {s : State} {p : Port} (h : (s.port p).health = .detached) :
    s.reject p = s.setPort p { s.port p with rejoin := 0 } := by simp only [State.reject, h, if_true]

/-- An accepted message on a port that is not DETACHED (R116, R120). -/
structure Accepts (s t : State) (p : Port) : Prop where
  port : t.port p = { s.port p with errors := (s.port p).errors - 1, health := healthOf ((s.port p).errors - 1) }
  ports : ∀ q, q ≠ p → t.port q = s.port q
  cabinets : ∀ c, t.cabinet c =
    if p = .c c ∧ s.mode ≠ .configure then { s.cabinet c with silence := some (2 * s.settings.roundLength) }
    else s.cabinet c
  trouble : t.sset = s.sset.setCond SFlag.linkTrouble.bit t.linkTroubleStands
  frame : SameBut [.ports, .cabinets, .sset] s t

theorem State.accept_spec (s : State) (p : Port) : Accepts s (s.accept p) p := by
  set s1 := (s.setPort p { s.port p with errors := (s.port p).errors - 1
                                         health := healthOf ((s.port p).errors - 1) }).evalLinkTrouble with hs1
  have f1 : SameBut [.ports, .sset] s s1 :=
    (s.setPort_frame p _).comp (State.evalLinkTrouble_frame _) (by simp) (by simp)
  cases p with
  | c n =>
    obtain ⟨h1, h2⟩ := s1.restartSilence_spec n
    have e : s.accept (.c n) = s1.restartSilence n := rfl
    rw [e]
    refine ⟨?_, fun q hq => ?_, fun c => ?_, ?_, f1.comp h2 (by simp) (by simp)⟩
    · rw [h2.port (by simp)]; simp [hs1]
    · rw [h2.port (by simp)]; simp [hs1, hq]
    · rw [h1]; simp [hs1, eq_comm]
    · rw [show (s1.restartSilence n).sset = s1.sset from h2 .sset (by simp)]
      have : (s1.restartSilence n).linkTroubleStands = s1.linkTroubleStands := by
        simp only [State.linkTroubleStands]; congr 1; funext q; rw [h2.port (by simp)]
      rw [this]; rfl
  | d | s =>
    exact ⟨by simp [State.accept], fun q hq => by simp [State.accept, hq], fun c => by simp [State.accept],
      rfl, f1.mono (by simp)⟩

/-! ### Receivers -/

/-- A receiver that holds neither a bad header nor a whole message has nothing due. -/
theorem State.settle_none {s : State} {p : Port} (h : s.headerDue p = false) (h' : s.messageDue p = false) :
    s.settle p = s := by simp [State.settle, h, h']

theorem State.settle_receiving {s : State} {p : Port} {bytes : List Byte} (h : (s.port p).rx = .receiving bytes)
    (hb : headerBad bytes = false) (hf : fullLength bytes = false) : s.settle p = s :=
  State.settle_none (by simp [State.headerDue, h, hb]) (by simp [State.messageDue, h, hf])

theorem State.settle_ready {s : State} {p : Port} (h : (s.port p).rx = .ready) : s.settle p = s :=
  State.settle_none (by simp [State.headerDue, h]) (by simp [State.messageDue, h])

theorem State.settle_hunt {s : State} {p : Port} {f : Bool} (h : (s.port p).rx = .hunt f) : s.settle p = s :=
  State.settle_none (by simp [State.headerDue, h]) (by simp [State.messageDue, h])

/-- Writing the receiver changes nothing else of the port. -/
theorem State.setRx_port (s : State) (p q : Port) (x : Receiver) :
    (s.setRx p x).port q = if q = p then { s.port p with rx := x } else s.port q := by simp [State.setRx]

theorem State.setRx_frame (s : State) (p : Port) (x : Receiver) : SameBut [.ports] s (s.setRx p x) := s.setPort_frame p _

/-! ### What is due on a line is taken first (log 6) -/

/-- What leaves RESET and the straps alone leaves every receiver listening as before (R99, R163). -/
theorem SameBut.listens {l : List Block} {s t : State} (h : SameBut l s t) (h1 : Block.reset ∉ l) (h2 : Block.straps ∉ l)
    (q : Port) : t.listens q = s.listens q := by
  have e1 : t.resetLow = s.resetLow := h .reset h1
  have e2 : t.straps = s.straps := h .straps h2
  cases q <;> simp only [State.listens, State.present, e1, e2]

/-- An outcome leaves the receiver of its port, and which receivers listen, alone. -/
def KeepsReceiver (s t : State) (p : Port) : Prop := (t.port p).rx = (s.port p).rx ∧ ∀ q, t.listens q = s.listens q

theorem KeepsReceiver.trans {s t u : State} {p : Port} (h : KeepsReceiver s t p) (h' : KeepsReceiver t u p) :
    KeepsReceiver s u p := ⟨h'.1.trans h.1, fun q => (h'.2 q).trans (h.2 q)⟩

theorem State.reject_receiver (s : State) (p : Port) : KeepsReceiver s (s.reject p) p := by
  unfold State.reject
  simp only
  split
  · exact ⟨by simp, (s.setPort_frame p _).listens (by simp) (by simp)⟩
  · split
    · exact ⟨by rw [(s.detach_spec p).port], (s.detach_spec p).frame.listens (by simp) (by simp)⟩
    · exact ⟨by simp, ((s.setPort_frame p _).comp (State.evalLinkTrouble_frame _) (l := [.ports, .sset]) (by simp)
        (by simp)).listens (by simp) (by simp)⟩

theorem State.handOn_receiver (s : State) (p : Port) (x : Item) : KeepsReceiver s (s.handOn p x) p := by
  unfold State.handOn State.overrun
  simp only
  repeat' split
  all_goals exact ⟨by simp, fun q => by cases q <;> rfl⟩

theorem State.acceptDetached_receiver (s : State) (p : Port) (k : Byte) : KeepsReceiver s (s.acceptDetached p k) p := by
  unfold State.acceptDetached
  simp only
  split
  · split
    · exact ⟨by rw [(s.rejoin_spec p).port], (s.rejoin_spec p).frame.listens (by simp) (by simp)⟩
    · exact ⟨by simp, (s.setPort_frame p _).listens (by simp) (by simp)⟩
  · exact ⟨rfl, fun _ => rfl⟩

theorem State.deliver_receiver (s : State) (p : Port) (m : Msg) (good : Bool) : KeepsReceiver s (s.deliver p m good) p := by
  unfold State.deliver
  repeat' split
  · exact s.acceptDetached_receiver p _
  · exact KeepsReceiver.trans ⟨by rw [(s.accept_spec p).port], (s.accept_spec p).frame.listens (by simp) (by simp)⟩
      (State.handOn_receiver _ _ _)
  · exact (s.reject_receiver p).trans (State.handOn_receiver _ _ _)
  · exact s.reject_receiver p

/-- A whole message can be parsed (R100, R102). -/
theorem parseMessage_of_full {bytes : List Byte} (h : fullLength bytes = true) : ∃ x, parseMessage bytes = some x := by
  rcases bytes with _ | ⟨a, _ | ⟨b, _ | ⟨c, _ | ⟨d, r⟩⟩⟩⟩ <;> simp_all [fullLength, parseMessage]

/-- A header fault leaves its receiver in HUNT (R101). -/
theorem State.faultHeader_receiver (s : State) (p : Port) :
    ((s.faultHeader p).port p).rx = .hunt false ∧ ∀ q, (s.faultHeader p).listens q = s.listens q := by
  have h := (s.setRx p (.hunt false)).reject_receiver p
  exact ⟨h.1.trans (by simp [State.setRx_port]),
    fun q => (h.2 q).trans ((s.setRx_frame p _).listens (by simp) (by simp) q)⟩

/-- A completion leaves its receiver in HUNT, before the first character after a completed message (R100). -/
theorem State.completeMessage_receiver {s : State} {p : Port} {bytes : List Byte} (hr : (s.port p).rx = .receiving bytes)
    (hf : fullLength bytes = true) :
    ((s.completeMessage p).port p).rx = .hunt true ∧ ∀ q, (s.completeMessage p).listens q = s.listens q := by
  obtain ⟨⟨m, good⟩, hm⟩ := parseMessage_of_full hf
  have e : s.completeMessage p = (s.setRx p (.hunt true)).deliver p m good := by simp [State.completeMessage, hr, hm]
  have h := (s.setRx p (.hunt true)).deliver_receiver p m good
  rw [e]
  exact ⟨h.1.trans (by simp [State.setRx_port]),
    fun q => (h.2 q).trans ((s.setRx_frame p _).listens (by simp) (by simp) q)⟩

/-! ### Rejections that detach, or reach a DETACHED port -/

/-- A whole message with a good header and a payload check that does not match is due, and parses as such (R102). -/
theorem damaged_due {k u l h c1 c0 : Byte} {payload : List Byte} (hc : crc8 [k, u, l] = h) (hn : payload.length = l.toNat)
    (h1 : 1 ≤ l.toNat) (h60 : l.toNat ≤ 60) (hx : [c1, c0] ≠ byte2 (crc16 payload).toNat) :
    headerBad ([k, u, l, h] ++ payload ++ [c1, c0]) = false ∧ fullLength ([k, u, l, h] ++ payload ++ [c1, c0]) = true ∧
      parseMessage ([k, u, l, h] ++ payload ++ [c1, c0]) = some ({ kind := k, unit := u, payload := payload }, false) := by
  have h0 : ¬ l = 0#8 := fun e => by rw [e] at h1; exact absurd h1 (by decide)
  refine ⟨by simp [headerBad, hc]; omega, by simp [fullLength, h0, hn], ?_⟩
  have e1 : (payload ++ [c1, c0]).take l.toNat = payload := by rw [← hn]; simp
  have e2 : (payload ++ [c1, c0]).drop l.toNat = [c1, c0] := by rw [← hn]; simp
  simp only [parseMessage, List.cons_append, List.nil_append, e1, e2]
  have e3 : ([c1, c0] == byte2 (crc16 payload).toNat) = false := by simpa using hx
  simp only [e3, Bool.or_false]
  simp [h0]

/-- A rejection on a port that is or becomes DETACHED by it is nothing else: no payload-failure entry is formed (R103). -/
theorem Rejection.exec_eq {s : State} {p : Port} {c : Instr} {rx : Receiver} (h : Rejection s p c rx)
    (hl : s.listens p = true) (hd : (s.port p).health = .detached ∨ 255 ≤ (s.port p).errors + 8) :
    exec c s = .next ((s.setRx p rx).reject p) := by
  cases h with
  | header bytes hrx hb => simp [exec, execHeaderFault, hl, State.headerDue, hrx, hb, State.faultHeader]
  | framing bytes cause hrx hb hf hc =>
    simp only [exec, execFramingError, hl, if_true, State.settle_receiving hrx hb hf, hrx]
    rcases hc with rfl | rfl <;> rfl
  | opening hrx => simp [exec, execFramingError, hl, State.settle_ready hrx, hrx, framingArises, State.frameError]
  | after cause hrx hc =>
    simp only [exec, execFramingError, hl, if_true, State.settle_hunt hrx, hrx]
    rcases hc with rfl | rfl <;> rfl
  | character b hrx => simp [exec, execCharacterReceived, hl, State.settle_hunt hrx, State.character, hrx, State.frameError]
  | payload k u l h c1 c0 payload hrx hc hn h1 h60 hx =>
    obtain ⟨d1, d2, d3⟩ := damaged_due hc hn h1 h60 hx
    have hgone : (((s.setRx p (.hunt true)).reject p).port p).health = .detached := by
      rcases hd with hd | hd
      · rw [State.reject_detached (by simp [State.setRx_port, hd])]; simp [State.setRx_port, hd]
      · by_cases hh : (s.port p).health = .detached
        · rw [State.reject_detached (by simp [State.setRx_port, hh])]; simp [State.setRx_port, hh]
        · rw [State.reject_detaches (by simpa [State.setRx_port] using hh) (by simpa [State.setRx_port] using hd),
            (State.detach_spec _ p).port]
    have hdue : s.messageDue p = true := by simp only [State.messageDue, hrx, d1, d2]; rfl
    simp only [exec, execMessageComplete, hl, hdue, Bool.and_self, if_true, State.completeMessage, hrx, d3, State.deliver]
    simp only [Bool.false_eq_true, if_false, State.handOn, hgone, if_true, ite_self]

end Sys2Proof.Machine
end

