-- ==== Sys2Proof/Laws/Modes.lean ====
section
/-!
SUPPORT. What a walk of publications, a shed assertion and a change of mode can do (chapters 5 and 10).
-/
namespace Sys2Proof.Machine

/-! ### Walks of publications -/

theorem Issues.publishes {s t : State} {b : Fin 32} {v : Nat} (h : Issues s t b v) : Publishes s t b v :=
  ⟨h.bay, h.bays, h.board, h.boards, h.ports, by
    rw [show t.sset = s.sset from h.frame .sset (by simp)]; exact NoticeSet.SameBut.refl _ _, h.frame.mono (by simp)⟩

/-- A bay after the publication of `v`, if any. -/
def Bay.withPublished (x : Bay) : Option Nat → Bay
  | some v => { x with published := v, seq := x.seq + 1 }
  | none => x

/-- The board place of a bay after the publication of `v`, if any. -/
def State.boardWith (s : State) (b : Fin 32) : Option Nat → Option (Nat × Seq)
  | some v => some (v, (s.bay b).seq + 1)
  | none => s.board b

/-- What a walk over the bays of `l` that publishes `want b` at bay `b`, if any, leaves. -/
structure Walks (s t : State) (l : List (Fin 32)) (want : Fin 32 → Option Nat) : Prop where
  bay : ∀ b, t.bay b = if b ∈ l then (s.bay b).withPublished (want b) else s.bay b
  board : ∀ b, t.board b = if b ∈ l then s.boardWith b (want b) else s.board b
  ports : ∀ p, LinkPort.Kicked (s.port p) (t.port p)
  sset : NoticeSet.SameBut 0x0001 s.sset t.sset
  frame : SameBut [.bays, .board, .ports, .sset] s t

/-- A walk whose step at each bay still untouched publishes `want b`, or nothing. -/
theorem walk_spec {s : State} {f : State → Fin 32 → State} {want : Fin 32 → Option Nat}
    (hf : ∀ t b, t.bay b = s.bay b → (∀ p, LinkPort.Kicked (s.port p) (t.port p)) →
      SameBut [.bays, .board, .ports, .sset] s t →
      match want b with
      | some v => Publishes t (f t b) b v
      | none => f t b = t) (l : List (Fin 32)) (hl : l.Nodup) : Walks s (l.foldl f s) l want := by
  refine foldl_prefix (P := fun l t => Walks s t l want) ⟨by simp, by simp, fun _ => LinkPort.Kicked.refl _,
    NoticeSet.SameBut.refl _ _, SameBut.refl _ s⟩ ?_ l hl
  intro l b t hb h
  have hbay : t.bay b = s.bay b := by rw [h.bay, if_neg hb]
  have hboard : t.board b = s.board b := by rw [h.board, if_neg hb]
  have key := hf t b hbay h.ports h.frame
  cases hw : want b with
  | none =>
    simp only [hw] at key
    rw [key]
    refine ⟨fun a => ?_, fun a => ?_, h.ports, h.sset, h.frame⟩
    · by_cases e : a = b
      · subst e; simp [hbay, hw, Bay.withPublished]
      · simp [h.bay, e]
    · by_cases e : a = b
      · subst e; simp [hboard, hw, State.boardWith]
      · simp [h.board, e]
  | some v =>
    simp only [hw] at key
    refine ⟨fun a => ?_, fun a => ?_, fun p => (h.ports p).trans (key.ports p), h.sset.trans key.sset,
      h.frame.trans key.frame⟩
    · by_cases e : a = b
      · subst e; simp [key.bay, hbay, hw, Bay.withPublished]
      · simp [key.bays a e, h.bay, e]
    · by_cases e : a = b
      · subst e; simp [key.board, hbay, hw, State.boardWith]
      · simp [key.boards a e, h.board, e]

/-- The zero publication at entry to CONFIGURE (R95): every reachable bay above 0.0 kW is published 0.0 kW. -/
theorem State.publishZero_spec (s : State) : Walks s s.publishZero allBays fun b =>
    if (s.bay b).reachable = true ∧ 0 < (s.bay b).published then some 0 else none := by
  refine walk_spec (f := fun t b => if 0 < (t.bay b).published then t.publish b 0 else t) ?_ allBays allBays_nodup
  intro t b hb _ _
  by_cases hr : (s.bay b).reachable = true
  · by_cases hp : 0 < (s.bay b).published
    · simp only [hr, hp, and_self, if_true, hb]; exact State.publish_spec 0 (by rw [hb]; exact hr)
    · simp only [hr, hp, and_false, if_false, hb]
  · have hn : ¬ ((s.bay b).reachable = true ∧ 0 < (s.bay b).published) := fun h => hr h.1
    simp only [if_neg hn]
    rw [State.publish_unreachable 0 (by rw [hb]; simpa using hr), ite_self]

/-- The shed halving (R92): every reachable bay above 0.0 kW is published half its setpoint, or 0.0 kW below Pmin. -/
theorem State.halveAll_spec (s : State) : Walks s s.halveAll allBays fun b =>
    if (s.bay b).reachable = true ∧ 0 < (s.bay b).published then some (halved s.settings.pminInForce (s.bay b).published)
    else none := by
  refine walk_spec (f := State.halveBay) ?_ allBays allBays_nodup
  intro t b hb _ hf
  simp only [State.halveBay, hb]
  rw [show t.settings = s.settings from hf .settings (by simp)]
  by_cases h : (s.bay b).reachable = true ∧ 0 < (s.bay b).published
  · simp only [h, and_self, if_true]
    exact (t.issue_spec b _).publishes
  · simp only [if_neg h]

/-! ### Entry to CONFIGURE (R158) -/

theorem State.stopRound_frame (s : State) : SameBut [.increases, .slotTimes, .timer, .early] s s.stopRound := by
  intro k hk; cases k <;> first | rfl | simp at hk

/-- Link Health at entry to CONFIGURE (R126). -/
theorem State.resetLinks_spec (s : State) :
    (∀ b, s.resetLinks.bay b =
      if (s.port (.c (cabinetOf b))).health = .detached then { s.bay b with reachable := true, resync := true }
      else s.bay b) ∧
    (∀ p, s.resetLinks.port p = { s.port p with errors := 0, health := .sound, rejoin := 0 }) ∧
    (∀ c, s.resetLinks.cabinet c = { s.cabinet c with silence := none }) ∧
    NoticeSet.SameBut 0x0004 s.sset s.resetLinks.sset ∧ SameBut [.bays, .ports, .cabinets, .sset] s s.resetLinks := by
  refine ⟨fun b => by simp [State.resetLinks], fun p => by simp [State.resetLinks],
    fun c => by simp [State.resetLinks], ?_, ?_⟩
  · simp only [State.resetLinks, State.evalLinkTrouble_sset, State.mapCabinets_sset, State.mapPorts_sset,
      State.mapBays_sset]
    exact NoticeSet.setCond_frame _ _ _
  · simp only [State.resetLinks]
    exact ((s.mapBays_frame _).comp (State.mapPorts_frame _ _) (l := [.bays, .ports]) (by simp) (by simp)).comp
      ((State.mapCabinets_frame _ _).comp (State.evalLinkTrouble_frame _) (l := [.cabinets, .sset]) (by simp) (by simp))
      (by simp) (by simp)

/-- Entry to CONFIGURE (R158) is what `EntersConfigure` says, with the pending mode then read as none. -/
theorem State.enterConfigure_spec (s : State) : EntersConfigure s { s.enterConfigure with pendingMode := none } := by
  have f1 := s.stopRound_frame
  have i1 : ∀ b, s.stopRound.pendingInc b = none := fun b => s.pendingInc_dropIncreases b
  have r1 : s.stopRound.alloc.timer = none ∧ s.stopRound.alloc.early = false ∧ s.stopRound.pub.slotTimes = [] :=
    ⟨rfl, rfl, rfl⟩
  obtain ⟨b2, p2, c2, n2, f2⟩ := s.stopRound.resetLinks_spec
  have w := s.stopRound.resetLinks.publishZero_spec
  change EntersConfigure s { ({ s.stopRound.resetLinks.publishZero with
    alloc := { s.stopRound.resetLinks.publishZero.alloc with order := [] }, mode := .configure } : State) with
    pendingMode := none }
  generalize s.stopRound = s1 at *
  generalize s1.resetLinks = s2 at *
  generalize s2.publishZero = s3 at *
  have F2 := f1.comp f2 (l := [.increases, .slotTimes, .timer, .early, .bays, .ports, .cabinets, .sset]) (by simp) (by simp)
  have F3 := F2.comp w.frame (l := [.increases, .slotTimes, .timer, .early, .bays, .ports, .cabinets, .sset, .board])
    (by simp) (by simp)
  have hb2 : ∀ b, s2.bay b = if (s.port (.c (cabinetOf b))).health = .detached then
      { s.bay b with reachable := true, resync := true } else s.bay b := fun b => by
    rw [b2, f1.bay (by simp), f1.port (by simp)]
  have hr2 : ∀ b, (s2.bay b).reachable = true ↔
      ((s.bay b).reachable = true ∨ (s.port (.c (cabinetOf b))).health = .detached) := fun b => by
    rw [hb2]; split <;> simp_all
  have hp2 : ∀ b, (s2.bay b).published = (s.bay b).published ∧ (s2.bay b).seq = (s.bay b).seq := fun b => by
    rw [hb2]; split <;> simp
  have ho2 : ∀ b, s2.board b = s.board b := F2.boardAt (by simp)
  have hb3 : ∀ b, s3.bay b = (s2.bay b).withPublished
      (if (s2.bay b).reachable = true ∧ 0 < (s2.bay b).published then some 0 else none) := fun b => by
    simpa using w.bay b
  refine ⟨⟨rfl, rfl⟩, ⟨?_, ?_, rfl, ?_, ?_⟩, ?_, ?_, ?_, ?_, ?_, ?_, ?_⟩
  · exact (w.frame .timer (by simp)).trans ((f2 .timer (by simp)).trans r1.1)
  · exact (w.frame .early (by simp)).trans ((f2 .early (by simp)).trans r1.2.1)
  · exact (w.frame .slotTimes (by simp)).trans ((f2 .slotTimes (by simp)).trans r1.2.2)
  · intro b; exact (w.frame.increaseAt (by simp) b).trans ((f2.increaseAt (by simp) b).trans (i1 b))
  · intro p
    have := w.ports p
    rw [p2, f1.port (by simp)] at this
    exact this
  · intro c; exact (w.frame.cabinet (by simp) c).trans (by rw [c2, f1.cabinet (by simp)])
  · intro b back h hp
    have hc : (s2.bay b).reachable = true ∧ 0 < (s2.bay b).published :=
      ⟨(hr2 b).mpr h, by rw [(hp2 b).1]; exact hp⟩
    have e := hb3 b
    rw [if_pos hc] at e
    have eb := w.board b
    rw [if_pos (mem_allBays b), if_pos hc] at eb
    refine ⟨?_, ?_, ?_⟩
    · exact (congrArg Bay.published e)
    · exact (congrArg Bay.seq e).trans (by simp [Bay.withPublished, (hp2 b).2])
    · exact eb.trans (by simp [State.boardWith, (hp2 b).2])
  · intro b h
    have hc : ¬ ((s2.bay b).reachable = true ∧ 0 < (s2.bay b).published) := by
      rw [hr2, (hp2 b).1]; exact h
    have e := hb3 b
    rw [if_neg hc] at e
    have eb := w.board b
    rw [if_pos (mem_allBays b), if_neg hc] at eb
    refine ⟨?_, ?_, ?_⟩
    · exact (congrArg Bay.published e).trans (hp2 b).1
    · exact (congrArg Bay.seq e).trans (hp2 b).2
    · exact eb.trans (ho2 b)
  · intro b
    change s3.bay b = { s.bay b with
      published := (s3.bay b).published, seq := (s3.bay b).seq
      reachable := if (s.port (.c (cabinetOf b))).health = .detached then true else (s.bay b).reachable
      resync := if (s.port (.c (cabinetOf b))).health = .detached then true else (s.bay b).resync }
    rw [hb3 b]
    generalize (if (s2.bay b).reachable = true ∧ 0 < (s2.bay b).published then some 0 else none) = o
    rw [hb2]
    split <;> cases o <;> simp [Bay.withPublished]
  · change NoticeSet.SameBut 0x0005 s.sset s3.sset
    rw [← show s1.sset = s.sset from f1 .sset (by simp)]
    exact n2.comp w.sset (by decide) (by decide)
  · refine SameBut.trans (t := s3) (F3.mono (by simp)) ?_
    intro k hk; cases k <;> first | rfl | simp at hk

/-! ### Change of mode (R157 to R160) -/

theorem State.startSilence_spec (s : State) : SilenceStarts s s.startSilence :=
  ⟨fun c => by simp [State.startSilence], s.mapCabinets_frame _⟩

/-- A round start neither reads nor writes the pending mode. -/
theorem RoundStarts.setPendingMode {s t : State} (h : RoundStarts s t) (m : Option Mode) :
    RoundStarts { s with pendingMode := m } { t with pendingMode := m } :=
  ⟨h.increases, h.cabinets, h.bays, h.env, h.snapshot, h.slotTimes, h.timer, h.satisfied, h.dset, h.sset, by
    intro k hk
    have := h.frame k hk
    cases k <;> first | exact this | rfl⟩

/-- A mode that takes effect (R157) is what `ModeTakesEffect` says. -/
theorem State.changeMode_spec (s : State) (m : Mode) : ModeTakesEffect s (s.changeMode m) m := by
  unfold ModeTakesEffect State.changeMode
  by_cases h1 : m = s.mode
  · simp only [if_pos h1]
  · simp only [if_neg h1]
    by_cases h2 : m = .configure
    · subst h2; simp only [if_true]; exact s.enterConfigure_spec
    · simp only [if_neg h2]
      by_cases h3 : s.mode = .configure
      · simp only [if_pos h3]
        refine ⟨s.startSilence, s.startSilence_spec, ?_⟩
        cases m with
        | configure => exact absurd rfl h2
        | run => exact (State.roundStart_spec { s.startSilence with mode := .run, settings := s.settings.govern }).setPendingMode none
        | hold => exact (State.roundStart_spec { s.startSilence with mode := .hold, settings := s.settings.govern }).setPendingMode none
      · simp only [if_neg h3]
        cases m with
        | configure => exact absurd rfl h2
        | run => exact ⟨s.startSilence, s.startSilence_spec, rfl⟩
        | hold => exact ⟨s.startSilence, s.startSilence_spec, rfl⟩

end Sys2Proof.Machine
end

