-- ==== Sys2Proof/Laws/Passes.lean ====
section
/-!
SUPPORT. What the evaluation of a pending increase, and a slot's walk over the service order, can do (R86, R87).
-/
namespace Sys2Proof.Machine

/-! ### One increase -/

/-- An increase (R86, R87): published when it qualifies, and otherwise nothing. -/
theorem State.increase_spec {s : State} {b : Fin 32} {target : Nat} :
    let fit := s.mayIncrease b = true ∧ 0 < s.increaseOf b target ∧
      s.settings.pminInForce ≤ (s.bay b).published + (s.increaseOf b target).toNat
    (fit → ∃ u, Publishes s u b ((s.bay b).published + (s.increaseOf b target).toNat) ∧
      s.increase b target = { u with pub := { u.pub with used := u.pub.used + (s.increaseOf b target).toNat } }) ∧
    (¬ fit → s.increase b target = s) := by
  intro fit
  constructor
  · intro h
    have hr : (s.bay b).reachable = true := by
      have := h.1
      unfold State.mayIncrease at this
      simp only [Bool.and_eq_true] at this
      exact this.1.1.1.2
    exact ⟨_, State.publish_spec _ hr, by simp only [State.increase]; rw [if_pos h]⟩
  · intro h
    simp only [State.increase]; rw [if_neg h]

/-- A publication that raises a setpoint raises the total allowance by the rise at most (R3). -/
theorem Publishes.total_le {s u : State} {b : Fin 32} {v : Nat} (h : Publishes s u b v) (hv : (s.bay b).published ≤ v) :
    u.total ≤ s.total + (v - (s.bay b).published) := by
  have hall : ∀ l : List (Fin 32), l.Nodup → (l.map fun a => (u.bay a).allowance).sum ≤
      (l.map fun a => (s.bay a).allowance).sum + (if b ∈ l then v - (s.bay b).published else 0) := by
    intro l
    induction l with
    | nil => simp
    | cons a l ih =>
      intro hn
      have hn' := List.nodup_cons.mp hn
      have := ih hn'.2
      simp only [List.map_cons, List.sum_cons, List.mem_cons]
      by_cases e : a = b
      · subst e
        rw [if_neg hn'.1] at this
        rw [if_pos (Or.inl rfl)]
        have : (u.bay a).allowance ≤ (s.bay a).allowance + (v - (s.bay a).published) := by
          rw [h.bay]; simp only [Bay.allowance]; omega
        omega
      · rw [h.bays a e]
        have e' : ¬ b = a := fun x => e x.symm
        simp only [e', false_or]
        omega
  have := hall allBays allBays_nodup
  simp only [mem_allBays, if_true] at this
  exact this

/-- The checks of R86 as `IncreaseTaken` spells them. -/
theorem State.mayIncrease_iff (s : State) (b : Fin 32) : s.mayIncrease b = true ↔
    s.mode = .run ∧ (s.bay b).reachable = true ∧ (s.port (.c (cabinetOf b))).health ≠ .detached ∧
      (s.bay b).resync = false ∧ ∃ y, (s.bay b).session = some y ∧ y.phase = .active := by
  simp only [State.mayIncrease]
  cases h : (s.bay b).session with
  | none => simp
  | some y => simp; tauto

/-- A pending increase, evaluated and discarded (R86, R87), is taken as `IncreaseTaken` says. -/
theorem State.increase_taken (s : State) (b : Fin 32) (target : Nat) :
    IncreaseTaken s ((s.increase b target).setPendingInc b none) b target := by
  obtain ⟨g1, g2⟩ := State.increase_spec (s := s) (b := b) (target := target)
  have fp : ∀ t : State, SameBut [.increases] t (t.setPendingInc b none) := fun t => t.setPendingInc_frame b none
  unfold IncreaseTaken
  intro x port fit goal room rise inc up
  have hinc : s.increaseOf b target = inc := rfl
  have hroom : inc ≤ room := by
    simp only [inc]
    split
    · exact min_le_right _ _
    · exact le_trans (min_le_left _ _) (min_le_right _ _)
  rw [hinc, s.mayIncrease_iff b] at g1 g2
  by_cases hc : fit ∧ 0 < inc ∧ s.settings.pminInForce ≤ up
  · obtain ⟨w, hw, e⟩ := g1 hc
    rw [e]
    refine ⟨by simp, fun a ha => ⟨hw.bays a ha, hw.boards a ha, ?_⟩, fun _ _ _ => ⟨hw.bay, hw.board, ?_, ?_⟩,
      fun h => absurd hc h, hw.ports, hw.sset, ?_⟩
    · rw [State.pendingInc_setPendingInc, if_neg ha]
      exact hw.frame.increaseAt (by simp) a
    · change w.pub.used + _ = _
      rw [show w.pub.used = s.pub.used from hw.frame .budget (by simp)]
    · change w.total ≤ s.env.inForce
      have h1 := hw.total_le (Nat.le_add_right _ _)
      have h2 := hc.2.1
      simp only [room] at hroom
      omega
    · refine (hw.frame.mono (by simp)).trans (SameBut.trans (t := { w with pub := { w.pub with used := w.pub.used + inc.toNat } })
        ?_ ((fp _).mono (by simp)))
      intro k hk; cases k <;> first | rfl | simp at hk
  · rw [g2 hc]
    exact ⟨by simp, fun a ha => ⟨rfl, rfl, by rw [State.pendingInc_setPendingInc, if_neg ha]⟩,
      fun h1 h2 h3 => absurd ⟨h1, h2, h3⟩ hc, fun _ => ⟨rfl, rfl, rfl⟩, fun _ => LinkPort.Kicked.refl _,
      NoticeSet.SameBut.refl _ _, (fp s).mono (by simp)⟩

/-! ### A slot's walk -/

/-- A bay of another slot, or with nothing pending, is passed over (R86). -/
theorem State.evaluateAt_skip {k : Fin 4} {s : State} {b : Fin 32} (h : (s.bay b).slot = k → s.pendingInc b = none) :
    State.evaluateAt k s b = s := by
  unfold State.evaluateAt
  cases hp : s.pendingInc b with
  | none => rfl
  | some t =>
    simp only
    rw [if_neg]; intro hs; rw [h hs] at hp; cases hp

/-- What the walk of slot `k` over the bays of `l` leaves. -/
structure SlotWalk (s t : State) (k : Fin 4) (l : List (Fin 32)) : Prop where
  same : ∀ b, (b ∉ l ∨ (s.bay b).slot ≠ k ∨ s.pendingInc b = none) → t.bay b = s.bay b ∧ t.board b = s.board b
  bays : ∀ b, t.bay b = { s.bay b with published := (t.bay b).published, seq := (t.bay b).seq }
  increases : ∀ b, t.pendingInc b = if b ∈ l ∧ (s.bay b).slot = k then none else s.pendingInc b
  ports : ∀ p, LinkPort.Kicked (s.port p) (t.port p)
  sset : NoticeSet.SameBut 0x0001 s.sset t.sset
  frame : SameBut [.bays, .board, .increases, .budget, .ports, .sset] s t

theorem State.increase_cases (s : State) (b : Fin 32) (target : Nat) : s.increase b target = s ∨
    ∃ u v n, Publishes s u b v ∧ s.increase b target = { u with pub := { u.pub with used := n } } := by
  obtain ⟨h1, h2⟩ := State.increase_spec (s := s) (b := b) (target := target)
  by_cases h : s.mayIncrease b = true ∧ 0 < s.increaseOf b target ∧
      s.settings.pminInForce ≤ (s.bay b).published + (s.increaseOf b target).toNat
  · obtain ⟨u, hu, e⟩ := h1 h
    exact Or.inr ⟨u, _, _, hu, e⟩
  · exact Or.inl (h2 h)

theorem slotWalk_spec (s : State) (k : Fin 4) :
    ∀ l : List (Fin 32), l.Nodup → SlotWalk s (l.foldl (State.evaluateAt k) s) k l := by
  refine foldl_prefix (P := fun l t => SlotWalk s t k l) ⟨by simp, by simp, by simp, fun _ => LinkPort.Kicked.refl _,
    NoticeSet.SameBut.refl _ _, SameBut.refl _ _⟩ ?_
  intro l b t hb h
  have hslot : (t.bay b).slot = (s.bay b).slot := by rw [h.bays b]
  have hpi : t.pendingInc b = s.pendingInc b := by rw [h.increases, if_neg (fun x => hb x.1)]
  have weaken : ∀ a, (a ∉ l ++ [b] ∨ (s.bay a).slot ≠ k ∨ s.pendingInc a = none) →
      t.bay a = s.bay a ∧ t.board a = s.board a := fun a ha => by
    refine h.same a ?_
    rcases ha with ha | ha | ha
    · exact Or.inl fun hm => ha (by simp [hm])
    · exact Or.inr (Or.inl ha)
    · exact Or.inr (Or.inr ha)
  have skip : ((s.bay b).slot = k → s.pendingInc b = none) → SlotWalk s (State.evaluateAt k t b) k (l ++ [b]) := by
    intro hn
    rw [State.evaluateAt_skip (by rw [hslot, hpi]; exact hn)]
    refine ⟨weaken, h.bays, ?_, h.ports, h.sset, h.frame⟩
    intro a; rw [h.increases]
    by_cases e' : a = b
    · subst e'
      by_cases hk : (s.bay a).slot = k
      · simp [hb, hk, hn hk]
      · simp [hb, hk]
    · simp [e']
  by_cases hk : (s.bay b).slot = k
  · cases hp : s.pendingInc b with
    | none => exact skip fun _ => hp
    | some target =>
      have he : State.evaluateAt k t b = (t.increase b target).setPendingInc b none := by
        unfold State.evaluateAt; rw [hpi, hp]; simp only; rw [if_pos (hslot.trans hk)]
      rw [he]
      rcases t.increase_cases b target with e | ⟨u, v, n, hu, e⟩
      · rw [e]
        refine ⟨weaken, h.bays, ?_, h.ports, h.sset, h.frame.trans ((t.setPendingInc_frame b none).mono (by simp))⟩
        intro a; simp only [State.pendingInc_setPendingInc]
        by_cases e' : a = b
        · subst e'; simp [hk]
        · simp [e', h.increases]
      · rw [e]
        refine ⟨?_, ?_, ?_, fun p => (h.ports p).trans (hu.ports p), h.sset.trans hu.sset, ?_⟩
        · intro a ha
          have hab : a ≠ b := by
            rintro rfl
            rcases ha with ha | ha | ha
            · exact ha (by simp)
            · exact ha hk
            · rw [hp] at ha; cases ha
          exact ⟨(hu.bays a hab).trans (weaken a ha).1, (hu.boards a hab).trans (weaken a ha).2⟩
        · intro a
          change u.bay a = { s.bay a with published := (u.bay a).published, seq := (u.bay a).seq }
          by_cases e' : a = b
          · subst e'; rw [hu.bay]; conv_lhs => rw [h.bays a]
          · rw [hu.bays a e']; exact h.bays a
        · intro a; simp only [State.pendingInc_setPendingInc]
          by_cases e' : a = b
          · subst e'; simp [hk]
          · simp only [e', if_false, List.mem_append, List.mem_singleton, or_false]
            exact (hu.frame.increaseAt (by simp) a).trans (h.increases a)
        · refine h.frame.trans ((hu.frame.mono (by simp)).trans (t := u) ?_)
          intro k hk; cases k <;> first | rfl | simp at hk
  · exact skip fun x => absurd x hk

/-- The walk of slot `k` over a service order takes the slot as `SlotTaken` says (R86). -/
theorem slotTaken_walk (k : Fin 4) : ∀ (l : List (Fin 32)) (s : State), SlotTaken k l s (l.foldl (State.evaluateAt k) s)
  | [], s => .done s
  | b :: l, s => by
    rw [List.foldl_cons]
    cases hp : s.pendingInc b with
    | none => rw [State.evaluateAt_skip fun _ => hp]; exact .skip (.inl hp) (slotTaken_walk k l s)
    | some target =>
      by_cases hs : (s.bay b).slot = k
      · have e : State.evaluateAt k s b = (s.increase b target).setPendingInc b none := by
          simp only [State.evaluateAt, hp, hs, if_true]
        rw [e]
        exact .take target hp hs (s.increase_taken b target) (slotTaken_walk k l _)
      · rw [State.evaluateAt_skip fun h => absurd h hs]; exact .skip (.inr hs) (slotTaken_walk k l s)

end Sys2Proof.Machine
end

