-- ==== Sys2Proof/Laws/Reads.lean ====
section
/-!
SUPPORT. What taking a message and recognising an edge of GP1 leave of the READ records (section 6.9, R170, R173).
-/
namespace Sys2Proof.Machine

/-- The recognised level of GP1 alone takes a rising edge (R173). -/
theorem State.recognise_frame (s : State) (rise : Bool) : SameBut [.pins] s (s.recognise rise) := by
  intro k hk; cases k <;> first | rfl | simp at hk

@[simp] theorem State.recognise_gp1 (s : State) (rise : Bool) :
    (s.recognise rise).pins.gp1 = (s.pins.gp1 || (s.dedicated 1 && rise)) := rfl

@[simp] theorem State.recognise_false (s : State) : s.recognise false = s := by simp [State.recognise]

/-- Taking a message changes no level of a pin (R170). -/
theorem State.take_pinLevels (s : State) (p : Port) (pins : Byte) : (s.take p).pinLevels pins = s.pinLevels pins := by
  have h : ∀ n, (s.take p).functionLevel n = s.functionLevel n := fun n => by
    simp only [State.functionLevel, State.permitLevel, State.take_health]; rfl
  have hl : (s.take p).pinLevel pins = s.pinLevel pins := by funext n; unfold State.pinLevel; rw [h]; rfl
  unfold State.pinLevels; rw [hl]

/-- Taking a message changes no record (section 6.9). -/
theorem State.take_records (s : State) (p q : Port) (pins : Byte) (item : Nat) :
    (s.take p).records q pins item = s.records q pins item := by
  have hs : (s.take p).statusRecord q pins = s.statusRecord q pins := by
    simp only [State.statusRecord, State.take_pinLevels]; rfl
  have he : ∀ r, ((s.take p).port r).errors = (s.port r).errors := fun r => by
    simp only [State.take, State.port_setPort]; split
    · rename_i e; rw [e]
    · rfl
  have hl : ∀ r, ((s.take p).port r).record = (s.port r).record := fun r => by
    simp only [LinkPort.record, he, State.take_health]
  simp only [State.records, hs, hl]; rfl

end Sys2Proof.Machine
end

