-- ==== Sys2Proof/Laws/Roster.lean ====
section
/-!
SUPPORT. What the roster searches and the relinking walks of a ROSTER PUT can do (R5, R12 to R15).
-/
namespace Sys2Proof.Machine

theorem mem_allSlots (k : Fin 64) : k ∈ allSlots := List.mem_finRange k

/-! ### Searches -/

/-- The slot of a tag that one slot alone holds. -/
theorem State.slotOf_eq {s : State} {t : Tag} {j : Fin 64} {e : Entry} (h : s.entry j = some e) (ht : e.tag = t)
    (hu : ∀ i f, s.entry i = some f → f.tag = t → i = j) : s.slotOf t = some j := by
  have hs : (s.slotOf t).isSome := by
    unfold State.slotOf; rw [List.find?_isSome]; exact ⟨j, mem_allSlots j, by simp [h, ht]⟩
  obtain ⟨i, hi⟩ := Option.isSome_iff_exists.mp hs
  have hp := hi
  unfold State.slotOf at hp
  replace hp := List.find?_some hp
  rw [hi]; congr 1
  cases hf : s.entry i with
  | none => simp [hf] at hp
  | some f => exact hu i f hf (by simpa [hf] using hp)

/-- A tag no slot holds has no slot. -/
theorem State.slotOf_none {s : State} {t : Tag} (h : ∀ j e, s.entry j = some e → e.tag ≠ t) : s.slotOf t = none := by
  unfold State.slotOf
  rw [List.find?_eq_none]
  intro k _
  cases hk : s.entry k with
  | none => simp
  | some e => simpa using h k e hk

theorem State.freeSlot_none {s : State} (h : ∀ j, (s.entry j).isSome = true) : s.freeSlot = none := by
  unfold State.freeSlot
  rw [List.find?_eq_none]
  intro k _
  have := h k
  cases hk : s.entry k with
  | none => simp [hk] at this
  | some e => simp

/-- The lowest-numbered free slot (R5). -/
theorem State.freeSlot_eq {s : State} {j : Fin 64} (h : s.entry j = none) (hm : ∀ i, i < j → (s.entry i).isSome = true) :
    s.freeSlot = some j := by
  have hs : s.freeSlot.isSome := by
    unfold State.freeSlot; rw [List.find?_isSome]; exact ⟨j, mem_allSlots j, by simp [h]⟩
  obtain ⟨i, hi⟩ := Option.isSome_iff_exists.mp hs
  have hi' := hi
  unfold State.freeSlot at hi'
  have hp := List.find?_some hi'
  rw [hi]; congr 1
  rw [List.find?_eq_some_iff_getElem] at hi'
  obtain ⟨_, n, hn, he, hbefore⟩ := hi'
  have hget : ∀ (m : Nat) (hm : m < allSlots.length), (allSlots[m]).val = m := by simp [allSlots]
  by_contra hne
  have hni : i.val = n := by rw [← he]; exact hget n hn
  rcases lt_or_gt_of_ne hne with hlt | hgt
  · have := hm i hlt
    cases hk : s.entry i <;> simp [hk] at hp this
  · have hjn : j.val < n := hni ▸ hgt
    have hb := hbefore j.val hjn
    have hj : allSlots[j.val]'(by omega) = j := Fin.ext (hget _ _)
    rw [hj, h] at hb
    simp at hb

/-! ### Relinking walks (R15) -/

/-- The new disposition reaches the session of every bay of the list, and nothing else changes. -/
theorem deny_walk (s : State) (d : Disposition) (l : List (Fin 32)) (hl : l.Nodup) :
    (∀ b, b ∉ l → (l.foldl (fun t b => t.onSession b (·.deny d)) s).bay b = s.bay b) ∧
    (∀ b y, b ∈ l → (s.bay b).session = some y →
      (l.foldl (fun t b => t.onSession b (·.deny d)) s).bay b = { s.bay b with occ := .session (y.deny d) }) ∧
    (∀ b, (s.bay b).session = none → (l.foldl (fun t b => t.onSession b (·.deny d)) s).bay b = s.bay b) ∧
    SameBut [.bays] s (l.foldl (fun t b => t.onSession b (·.deny d)) s) := by
  refine foldl_prefix (P := fun l t => (∀ b, b ∉ l → t.bay b = s.bay b) ∧
    (∀ b y, b ∈ l → (s.bay b).session = some y → t.bay b = { s.bay b with occ := .session (y.deny d) }) ∧
    (∀ b, (s.bay b).session = none → t.bay b = s.bay b) ∧ SameBut [.bays] s t)
    ⟨by simp, by simp, by simp, SameBut.refl _ _⟩ ?_ l hl
  rintro l b t hb ⟨h1, h2, h3, h4⟩
  have hbay : t.bay b = s.bay b := h1 b hb
  unfold State.onSession
  rw [hbay]
  cases hs : (s.bay b).session with
  | none =>
    refine ⟨fun a ha => h1 a fun hm => ha (by simp [hm]), fun a y ha hy => ?_, h3, h4⟩
    rcases List.mem_append.mp ha with hm | hm
    · exact h2 a y hm hy
    · obtain rfl : a = b := by simpa using hm
      rw [hs] at hy; cases hy
  | some x =>
    refine ⟨fun a ha => ?_, fun a y ha hy => ?_, fun a hn => ?_, h4.trans (t.setBay_frame b _)⟩
    · have hab : a ≠ b := fun e => ha (by simp [e])
      simp [hab, h1 a fun hm => ha (by simp [hm])]
    · by_cases e : a = b
      · subst e; rw [hs] at hy; cases hy; simp
      · rcases List.mem_append.mp ha with hm | hm
        · simp [e, h2 a y hm hy]
        · exact absurd (by simpa using hm) e
    · have hab : a ≠ b := fun e => by subst e; rw [hs] at hn; cases hn
      simp [hab, h3 a hn]

theorem relinks_congr {s t : State} (h : ∀ b, t.bay b = s.bay b) (g : Tag) : t.relinks g = s.relinks g := by
  funext b; simp only [State.relinks, h]

theorem State.relinks_session {s : State} {g : Tag} {b : Fin 32} (h : s.relinks g b = true) :
    ∃ y, (s.bay b).session = some y := by
  unfold State.relinks at h
  cases e : (s.bay b).session with
  | none => simp [e] at h
  | some y => exact ⟨y, rfl⟩

/-- The bays that pass a test, in bay order, with the lowest of them first. -/
theorem filter_head {p : Fin 32 → Bool} {b : Fin 32} (hb : p b = true) (hmin : ∀ a, a < b → p a = false) :
    ∃ rest, allBays.filter p = b :: rest ∧ ∀ a, a ∈ rest ↔ a ≠ b ∧ p a = true := by
  have hsort : (allBays.filter p).Pairwise (· < ·) := List.Pairwise.filter _ (by decide)
  have hbm : b ∈ allBays.filter p := by simp [hb]
  cases hl : allBays.filter p with
  | nil => simp [hl] at hbm
  | cons c rest =>
    have hcm : c ∈ allBays.filter p := by simp [hl]
    have hc : p c = true := by simpa using hcm
    rw [hl] at hbm hsort
    obtain rfl : c = b := by
      rcases List.mem_cons.mp hbm with h | h
      · exact h.symm
      · rw [hmin c ((List.pairwise_cons.mp hsort).1 b h)] at hc; cases hc
    refine ⟨rest, rfl, fun a => ⟨fun h => ⟨?_, ?_⟩, fun ⟨h1, h2⟩ => ?_⟩⟩
    · rintro rfl; exact lt_irrefl _ ((List.pairwise_cons.mp hsort).1 _ h)
    · have : a ∈ allBays.filter p := by rw [hl]; exact List.mem_cons_of_mem _ h
      simpa using this
    · have : a ∈ allBays.filter p := by simp [h2]
      rw [hl] at this
      exact (List.mem_cons.mp this).resolve_left h1

end Sys2Proof.Machine
end

