-- ==== Sys2Proof/Laws/Sessions.lean ====
section
/-!
SUPPORT. What a session start, a walk of session ends and an outlet list can do (R4, R18, R23, R125).
-/
namespace Sys2Proof.Machine

/-! ### A walk of session ends -/

/-- Two bays that name one slot are one bay (R6). -/
theorem roster_unique {s : State} (h : s.RosterOk) {a b : Fin 32} {k : Fin 64} (ha : s.namedSlot a = some k)
    (hb : s.namedSlot b = some k) : a = b := by
  have h1 := (h a k).mp ha; have h2 := (h b k).mp hb
  rw [h1] at h2; cases h2; rfl

theorem namedSlot_of {s : State} {b : Fin 32} {x : Session} {k : Fin 64} (h : (s.bay b).session = some x)
    (hd : x.disp = .rostered k) : s.namedSlot b = some k := by
  simp [State.namedSlot, h, hd]

/-- What the end of every session of the bays of `l` leaves. -/
structure EndWalk (s t : State) (l : List (Fin 32)) : Prop where
  ended : ∀ b x, b ∈ l → (s.bay b).session = some x →
    t.bay b = { s.bay b with occ := .vacant, published := 0, seq := 0, confirmed := 0, unconfirmed := 0 } ∧
    t.board b = none ∧ t.pendingInc b = none ∧
    ∀ k e, x.disp = .rostered k → s.entry k = some e → t.entry k = some { e with
      state := if s.clock.minute < e.departure then .waiting else .departed, lastEnergy := some x.delivered }
  kept : ∀ b, ¬ (b ∈ l ∧ (s.bay b).inSession = true) → 
    t.bay b = s.bay b ∧ t.board b = s.board b ∧ t.pendingInc b = s.pendingInc b
  entries : ∀ k, (∀ b ∈ l, s.namedSlot b ≠ some k) → t.entry k = s.entry k
  marks : ∀ b, t.marked b = (s.marked b || (s.alloc.snap.isSome && decide (b ∈ l) && (s.bay b).inSession))
  dset : NoticeSet.SameBut 0x0003 s.dset t.dset
  sset : NoticeSet.SameBut 0x0021 s.sset t.sset
  frame : SameBut [.bays, .roster, .board, .increases, .marks, .dset, .sset] s t

theorem endWalk_spec {s : State} (hR : s.RosterOk) (l : List (Fin 32)) (hl : l.Nodup) :
    EndWalk s (l.foldl State.endSession s) l := by
  refine foldl_prefix (P := fun l t => EndWalk s t l) ⟨by simp, by simp, by simp, by simp, NoticeSet.SameBut.refl _ _, NoticeSet.SameBut.refl _ _, SameBut.refl _ _⟩ ?_ l hl
  intro l b t hb h
  have hbay := (h.kept b (fun hc => hb hc.1)).1
  have hmin : t.clock = s.clock := h.frame .clock (by simp)
  have hsn : t.alloc.snap = s.alloc.snap := h.frame .pass (by simp)
  cases hs : (s.bay b).session with
  | none =>
    rw [State.endSession_none (by rw [hbay]; exact hs)]
    have hin : (s.bay b).inSession = false := by simp [Bay.inSession, hs]
    refine ⟨?_, ?_, ?_, ?_, h.dset, h.sset, h.frame⟩
    · intro a x ha hx
      rcases List.mem_append.mp ha with hm | hm
      · exact h.ended a x hm hx
      · obtain rfl : a = b := by simpa using hm
        rw [hs] at hx; cases hx
    · intro a ha; exact h.kept a fun hc => ha ⟨by simp [hc.1], hc.2⟩
    · intro k hk; exact h.entries k fun a ha => hk a (by simp [ha])
    · intro a; rw [h.marks]
      by_cases e : a = b
      · subst e; simp [hin]
      · simp [e]
  | some x =>
    have E := State.endSession_spec (s := t) (b := b) (x := x) (by rw [hbay]; exact hs)
    have hin : (s.bay b).inSession = true := by simp [Bay.inSession, hs]
    refine ⟨?_, ?_, ?_, ?_, h.dset.trans E.dset, h.sset.trans E.sset, h.frame.trans (E.frame.mono (by simp))⟩
    · intro a y ha hy
      by_cases e : a = b
      · subst e
        rw [hs] at hy; cases hy
        refine ⟨by rw [E.bay, hbay], E.board.1, E.increase.1, ?_⟩
        intro k e hd he
        have : t.entry k = some e := by
          rw [h.entries k, he]
          intro a' ha' hn
          have := roster_unique hR hn (namedSlot_of hs hd); subst this; exact hb ha'
        rw [E.linked k e hd this, hmin]
      · have hm : a ∈ l := (List.mem_append.mp ha).resolve_right (by simpa using e)
        obtain ⟨h1, h2, h3, h4⟩ := h.ended a y hm hy
        refine ⟨by rw [E.bays a e, h1], by rw [E.board.2 a e, h2], by rw [E.increase.2 a e, h3], ?_⟩
        intro k e' hd he
        rw [E.entries k, h4 k e' hd he]
        intro hd'
        exact e (roster_unique hR (namedSlot_of hy hd) (namedSlot_of hs hd'))
    · intro a ha
      have e : a ≠ b := fun e => ha ⟨by simp [e], by rw [e]; exact hin⟩
      obtain ⟨h1, h2, h3⟩ := h.kept a fun hc => ha ⟨by simp [hc.1], hc.2⟩
      exact ⟨by rw [E.bays a e, h1], by rw [E.board.2 a e, h2], by rw [E.increase.2 a e, h3]⟩
    · intro k hk
      rw [E.entries k, h.entries k fun a ha => hk a (by simp [ha])]
      intro hd; exact hk b (by simp) (namedSlot_of hs hd)
    · intro a; rw [E.marks, h.marks, hsn]
      by_cases e : a = b
      · subst e; simp [hin, hb]
      · have : (a == b) = false := by simp [e]
        simp [e, this]

/-! ### Session start -/

/-- A session start (R17, R18) after the tag lookup. -/
structure SessionStarts (s t : State) (b : Fin 32) (tag : Tag) (pveh : Nat) (d : Disposition) : Prop where
  bay : t.bay b = (s.bay b).started d tag pveh
  bays : ∀ a, a ≠ b → t.bay a = s.bay a
  unknown : s.lookup tag = none → d = (if s.settings.courtesy then .courtesy else .refused) ∧ t.roster = s.roster ∧
    t.dset.pending &&& DFlag.unknownVan.bit ≠ 0
  refused : ∀ k e, s.lookup tag = some (k, e) → e.barred = true → d = .refused ∧ t.roster = s.roster
  duplicate : ∀ k e, s.lookup tag = some (k, e) → e.barred = false → e.pluggedElsewhere b = true →
    d = .duplicate ∧ t.roster = s.roster ∧ t.dset.pending &&& DFlag.duplicateTag.bit ≠ 0
  rostered : ∀ k e, s.lookup tag = some (k, e) → e.barred = false → e.pluggedElsewhere b = false →
    d = .rostered k ∧ t.entry k = some { e with state := .plugged b false } ∧ ∀ j, j ≠ k → t.entry j = s.entry j
  marks : ∀ a, t.marked a = (s.marked a || (s.alloc.snap.isSome && a == b))
  dset : NoticeSet.SameBut 0x000F s.dset t.dset
  sset : NoticeSet.SameBut 0x0021 s.sset t.sset
  frame : SameBut [.bays, .roster, .marks, .dset, .sset] s t

theorem raise_ne_zero (n n' : NoticeSet) (bit : Mask) (hb : bit ≠ 0) (h : n'.pending &&& bit = (n.raise bit).pending &&& bit) :
    n'.pending &&& bit ≠ 0 := by rw [h, NoticeSet.raise_pending]; exact hb

theorem State.startSession_eq (s : State) (b : Fin 32) (tag : Tag) (pveh : Nat) :
    s.startSession b tag pveh = ((((s.resolve b tag).1.setBay b
      (((s.resolve b tag).1.bay b).started (s.resolve b tag).2 tag pveh)).mark b).evalSession, (s.resolve b tag).2) := rfl

theorem State.startSession_spec (s : State) (b : Fin 32) (tag : Tag) (pveh : Nat) :
    SessionStarts s (s.startSession b tag pveh).1 b tag pveh (s.startSession b tag pveh).2 := by
  have go : ∀ r : State, SameBut [.roster, .dset] s r → NoticeSet.SameBut 0x000D s.dset r.dset →
      ∀ d t, t = ((r.setBay b ((r.bay b).started d tag pveh)).mark b).evalSession →
      t.bay b = (s.bay b).started d tag pveh ∧ (∀ a, a ≠ b → t.bay a = s.bay a) ∧ t.roster = r.roster ∧
      (t.dset.pending &&& ~~~DFlag.atRisk.bit = r.dset.pending &&& ~~~DFlag.atRisk.bit) ∧
      (∀ a, t.marked a = (s.marked a || (s.alloc.snap.isSome && a == b))) ∧ NoticeSet.SameBut 0x000F s.dset t.dset ∧
      NoticeSet.SameBut 0x0021 s.sset t.sset ∧ SameBut [.bays, .roster, .marks, .dset, .sset] s t := by
    rintro r hr hd d t rfl
    set u := r.setBay b ((r.bay b).started d tag pveh) with hu
    have fu := r.setBay_frame b ((r.bay b).started d tag pveh)
    have mf := u.mark_frame b
    obtain ⟨ef, ed, es⟩ := (u.mark b).evalSession_frame
    have hb : ∀ a, (u.mark b).evalSession.bay a = u.bay a := fun a => by rw [ef.bay (by simp), mf.bay (by simp)]
    have hdu : (u.mark b).dset = r.dset := (mf .dset (by simp)).trans (fu .dset (by simp))
    have hsu : (u.mark b).sset = s.sset := (mf .sset (by simp)).trans ((fu .sset (by simp)).trans (hr .sset (by simp)))
    rw [hdu] at ed
    rw [hsu] at es
    refine ⟨by rw [hb, hu]; simp [hr.bay], fun a ha => by rw [hb, hu]; simp [ha, hr.bay], ?_, ed.2.1, ?_, ?_, es, ?_⟩
    · exact (ef .roster (by simp)).trans ((mf .roster (by simp)).trans (fu .roster (by simp)))
    · intro a
      rw [ef.markAt (by simp), State.marked_mark, fu.markAt (by simp), hr.markAt (by simp),
        show u.alloc.snap = s.alloc.snap from (fu .pass (by simp)).trans (hr .pass (by simp))]
    · exact hd.comp ed (by decide) (by decide)
    · exact (hr.mono (by simp)).trans ((fu.mono (by simp)).trans ((mf.mono (by simp)).trans (ef.mono (by simp))))
  have bit : ∀ {n n' : NoticeSet} {f : DFlag}, f ≠ .atRisk →
      n'.pending &&& ~~~DFlag.atRisk.bit = (n.raise f.bit).pending &&& ~~~DFlag.atRisk.bit → n'.pending &&& f.bit ≠ 0 := by
    intro n n' f hf h
    have hsub : f.bit = ~~~DFlag.atRisk.bit &&& f.bit := by cases f <;> first | exact absurd rfl hf | decide
    refine raise_ne_zero n n' f.bit (by cases f <;> decide) ?_
    calc n'.pending &&& f.bit = n'.pending &&& (~~~DFlag.atRisk.bit &&& f.bit) := by rw [← hsub]
      _ = (n.raise f.bit).pending &&& (~~~DFlag.atRisk.bit &&& f.bit) := by
        rw [← BitVec.and_assoc, h, BitVec.and_assoc]
      _ = (n.raise f.bit).pending &&& f.bit := by rw [← hsub]
  rcases hl : s.lookup tag with _ | ⟨k, e⟩
  · have eq : s.resolve b tag = (s.raiseD .unknownVan, if s.settings.courtesy then .courtesy else .refused) := by
      rw [State.resolve, hl]
    rw [State.startSession_eq, eq]
    obtain ⟨h1, h2, h3, h4, h5, h6, h7, h8⟩ := go (s.raiseD .unknownVan) ((s.raiseD_frame _).mono (by simp))
      ((NoticeSet.raise_frame s.dset DFlag.unknownVan.bit).mono (by decide)) _ _ rfl
    exact ⟨h1, h2, fun _ => ⟨rfl, h3, bit (by simp) h4⟩, by simp [hl], by simp [hl], by simp [hl], h5, h6, h7, h8⟩
  · by_cases hb : e.barred = true
    · have eq : s.resolve b tag = (s, .refused) := by rw [State.resolve, hl]; simp only [if_pos hb]
      rw [State.startSession_eq, eq]
      obtain ⟨h1, h2, h3, h4, h5, h6, h7, h8⟩ := go s (SameBut.refl _ s) (NoticeSet.SameBut.refl _ _) _ _ rfl
      exact ⟨h1, h2, by simp [hl], fun _ _ _ _ => ⟨rfl, h3⟩, by simp [hl, hb], by simp [hl, hb], h5, h6, h7, h8⟩
    · by_cases hp : e.pluggedElsewhere b = true
      · have eq : s.resolve b tag = (s.raiseD .duplicateTag, .duplicate) := by
          rw [State.resolve, hl]; simp only [if_neg hb, if_pos hp]
        rw [State.startSession_eq, eq]
        obtain ⟨h1, h2, h3, h4, h5, h6, h7, h8⟩ := go (s.raiseD .duplicateTag) ((s.raiseD_frame _).mono (by simp))
          ((NoticeSet.raise_frame s.dset DFlag.duplicateTag.bit).mono (by decide)) _ _ rfl
        exact ⟨h1, h2, by simp [hl], by simp [hl, hb], fun _ _ _ _ _ => ⟨rfl, h3, bit (by simp) h4⟩, by simp [hl, hp],
          h5, h6, h7, h8⟩
      · have eq : s.resolve b tag =
            ((s.setEntry k (some { e with state := .plugged b false })).evalOverdue, .rostered k) := by
          rw [State.resolve, hl]; simp only [if_neg hb, if_neg hp]
        rw [State.startSession_eq, eq]
        obtain ⟨h1, h2, h3, h4, h5, h6, h7, h8⟩ := go ((s.setEntry k (some { e with state := .plugged b false })).evalOverdue)
          ((s.setEntry_frame k _).comp (State.evalOverdue_frame _) (by simp) (by simp))
          ((NoticeSet.setCond_frame s.dset DFlag.overdue.bit _).mono (by decide)) _ _ rfl
        refine ⟨h1, h2, by simp [hl], by simp [hl, hb], by simp [hl, hp], ?_, h5, h6, h7, h8⟩
        rintro k' e' he - -
        rw [hl] at he
        cases he
        have hent : ∀ t r : State, t.roster = r.roster → ∀ j, t.entry j = r.entry j := fun t r h j => by
          simp only [State.entry, h]
        refine ⟨rfl, ?_, fun j hj => ?_⟩
        · rw [hent _ _ h3]; simp
        · rw [hent _ _ h3]; simp [hj]

/-- What a tag lookup finds (R17). -/
theorem State.lookup_eq_some {s : State} {tag : Tag} {k : Fin 64} {e : Entry} :
    s.lookup tag = some (k, e) ↔
      s.indexAt (tagEntry s.index.window tag) = some k ∧ s.entry k = some e ∧ e.tag = tag ∧ e.state ≠ .departed := by
  unfold State.lookup
  cases hi : s.indexAt (tagEntry s.index.window tag) with
  | none => simp
  | some j =>
    cases he : s.entry j with
    | none => simp only [he, reduceCtorEq, Option.some.injEq, false_iff]; rintro ⟨rfl, h, _⟩; rw [he] at h; cases h
    | some f =>
      simp only [he]
      by_cases hc : f.tag = tag ∧ f.state ≠ .departed
      · simp only [if_pos hc, Option.some.injEq, Prod.mk.injEq]
        constructor
        · rintro ⟨rfl, rfl⟩; exact ⟨rfl, he, hc⟩
        · rintro ⟨rfl, h, _⟩; rw [he] at h; cases h; exact ⟨rfl, rfl⟩
      · simp only [if_neg hc, reduceCtorEq, Option.some.injEq, false_iff]
        rintro ⟨rfl, h, h'⟩; rw [he] at h; cases h; exact hc h'

/-! ### The outlet list (R4, R129) -/

theorem bay_cab (c : Fin 4) (o : Fin 8) : cabinetOf (bayAt c o) = c := by revert c o; decide
theorem bay_out (c : Fin 4) (o : Fin 8) : (bayAt c o).val % 8 = o.val := by revert c o; decide
theorem bayAt_inj (c : Fin 4) (o o' : Fin 8) (h : bayAt c o = bayAt c o') : o = o' := by revert c o o'; decide
theorem bay_ex (c : Fin 4) (b : Fin 32) (h : cabinetOf b = c) : b = bayAt c (outletOf b) := by revert c b; decide

/-- What an OUTLETS message does at bay `b`, listed with a cap or not listed (R4, R93). -/
structure OutletDone (s t : State) (b : Fin 32) (cap : Option Nat) : Prop where
  listed : ∀ v, cap = some v →
    let x := s.bay b
    let y := { x with pcap := v }
    if x.occ = .unfitted then t.bay b = { y with occ := .vacant } ∧ t.board b = s.board b
    else if x.inSession = true ∧ y.plim < x.published then
      t.bay b = { y with published := cutTo s.settings.pminInForce y.plim, seq := x.seq + 1 } ∧
      t.board b = some (cutTo s.settings.pminInForce y.plim, x.seq + 1)
    else t.bay b = y ∧ t.board b = s.board b
  unlisted : cap = none →
    match (s.bay b).occ with
    | .unfitted => t.bay b = s.bay b ∧ t.board b = s.board b
    | .vacant => t.bay b = { s.bay b with occ := .unfitted, pcap := 0 } ∧ t.board b = s.board b
    | .session y =>
      t.bay b = { s.bay b with occ := .unfitted, pcap := 0, published := 0, seq := 0, confirmed := 0, unconfirmed := 0 } ∧
      t.board b = none ∧ t.pendingInc b = none ∧
      ∀ k e, y.disp = .rostered k → s.entry k = some e → t.entry k = some { e with
        state := if s.clock.minute < e.departure then .waiting else .departed, lastEnergy := some y.delivered }
  others : ∀ a, a ≠ b → t.bay a = s.bay a ∧ t.board a = s.board a ∧ t.pendingInc a = s.pendingInc a
  entries : ∀ k, (cap = none → s.namedSlot b ≠ some k) → t.entry k = s.entry k
  ports : ∀ p, LinkPort.Kicked (s.port p) (t.port p)
  dset : NoticeSet.SameBut 0x0003 s.dset t.dset
  sset : NoticeSet.SameBut 0x0021 s.sset t.sset
  frame : SameBut [.bays, .roster, .marks, .increases, .board, .ports, .dset, .sset] s t

theorem outletDone_spec (s : State) (b : Fin 32) (cap : Option Nat) (hr : (s.bay b).reachable = true) :
    OutletDone s (match cap with | some v => s.fitOutlet b v | none => s.unfitOutlet b) b cap := by
  cases cap with
  | some v =>
    simp only
    unfold State.fitOutlet
    simp only
    by_cases hu : (s.bay b).occ = .unfitted
    · simp only [hu, if_true]
      set t := s.setBay b { s.bay b with occ := .vacant, pcap := v } with ht
      have mf := t.mark_frame b
      have fb := s.setBay_frame b { s.bay b with occ := .vacant, pcap := v }
      refine ⟨?_, by simp, ?_, ?_, ?_, ?_, ?_, (fb.mono (by simp)).trans (mf.mono (by simp))⟩
      · rintro w hw; cases hw; simp only [hu, if_true]
        rw [mf.bay (by simp), mf.boardAt (by simp)]; simp [ht]
      · intro a ha; rw [mf.bay (by simp), mf.boardAt (by simp), mf.increaseAt (by simp)]; simp [ht, ha]
      · intro k _; rw [mf.entry (by simp)]; simp [ht]
      · intro p; rw [mf.port (by simp)]; exact LinkPort.Kicked.refl _
      · rw [show (t.mark b).dset = s.dset from (mf .dset (by simp)).trans (fb .dset (by simp))]; exact NoticeSet.SameBut.refl _ _
      · rw [show (t.mark b).sset = s.sset from (mf .sset (by simp)).trans (fb .sset (by simp))]; exact NoticeSet.SameBut.refl _ _
    · simp only [hu, if_false]
      set t := s.setBay b { s.bay b with pcap := v } with ht
      have fb := s.setBay_frame b { s.bay b with pcap := v }
      have hb : t.bay b = { s.bay b with pcap := v } := by simp [ht]
      have L := State.limitVehicle_spec (s := t) (b := b) (by rw [hb]; exact hr)
      by_cases hc : (s.bay b).inSession = true ∧ Bay.plim { s.bay b with pcap := v } < (s.bay b).published
      · have hc' : (t.bay b).inSession = true ∧ (t.bay b).plim < (t.bay b).published := by rw [hb]; exact hc
        rw [if_pos hc'] at L
        refine ⟨?_, by simp, ?_, ?_, L.ports, ?_, L.sset.mono (by decide), (fb.mono (by simp)).trans (L.frame.mono (by simp))⟩
        · rintro w hw; cases hw; simp only [hu, if_false]; rw [if_pos hc, L.bay, L.board, hb]; exact ⟨rfl, rfl⟩
        · intro a ha; rw [L.bays a ha, L.boards a ha, L.frame.increaseAt (by simp)]; simp [ht, ha]
        · intro k _; rw [L.frame.entry (by simp)]; simp [ht]
        · rw [show (t.limitVehicle b).dset = s.dset from (L.frame .dset (by simp)).trans (fb .dset (by simp))]; exact NoticeSet.SameBut.refl _ _
      · have hc' : ¬ ((t.bay b).inSession = true ∧ (t.bay b).plim < (t.bay b).published) := by rw [hb]; exact hc
        rw [if_neg hc'] at L
        rw [L]
        refine ⟨?_, by simp, ?_, ?_, fun p => LinkPort.Kicked.refl _, NoticeSet.SameBut.refl _ _, NoticeSet.SameBut.refl _ _, fb.mono (by simp)⟩
        · rintro w hw; cases hw; simp only [hu, if_false]; rw [if_neg hc, hb]; exact ⟨rfl, by simp [ht]⟩
        · intro a ha; simp [ht, ha]
        · intro k _; simp [ht]
  | none =>
    simp only
    unfold State.unfitOutlet
    by_cases hu : (s.bay b).occ = .unfitted
    · simp only [hu, if_true]
      refine ⟨by simp, ?_, fun _ _ => ⟨rfl, rfl, rfl⟩, fun _ _ => rfl, fun _ => LinkPort.Kicked.refl _, NoticeSet.SameBut.refl _ _, NoticeSet.SameBut.refl _ _, SameBut.refl _ _⟩
      intro _; rw [hu]; exact ⟨rfl, rfl⟩
    · simp only [hu, if_false]
      have fin : ∀ t : State, SameBut [.bays, .marks] t (((t.setBay b { t.bay b with occ := .unfitted, pcap := 0 })).mark b) ∧
          (((t.setBay b { t.bay b with occ := .unfitted, pcap := 0 })).mark b).bay b = { t.bay b with occ := .unfitted, pcap := 0 } ∧
          ∀ a, a ≠ b → (((t.setBay b { t.bay b with occ := .unfitted, pcap := 0 })).mark b).bay a = t.bay a := fun t =>
        ⟨(t.setBay_frame b _).comp (State.mark_frame _ b) (by simp) (by simp),
          by rw [(State.mark_frame _ b).bay (by simp)]; simp, fun a ha => by rw [(State.mark_frame _ b).bay (by simp)]; simp [ha]⟩
      cases ho : (s.bay b).occ with
      | unfitted => exact absurd ho hu
      | vacant =>
        have hn : (s.bay b).session = none := by simp [Bay.session, ho]
        rw [State.endSession_none hn]
        obtain ⟨f1, f2, f3⟩ := fin s
        refine ⟨by simp, ?_, ?_, fun k _ => f1.entry (by simp) k, fun p => by rw [f1.port (by simp)]; exact LinkPort.Kicked.refl _, ?_, ?_, f1.mono (by simp)⟩
        · intro _; rw [ho]; exact ⟨f2, f1.boardAt (by simp) b⟩
        · intro a ha; exact ⟨f3 a ha, f1.boardAt (by simp) a, f1.increaseAt (by simp) a⟩
        · rw [f1 .dset (by simp)]; exact NoticeSet.SameBut.refl _ _
        · rw [f1 .sset (by simp)]; exact NoticeSet.SameBut.refl _ _
      | session y =>
        have hs : (s.bay b).session = some y := Bay.session_eq_some.mpr ho
        have E := State.endSession_spec hs
        obtain ⟨f1, f2, f3⟩ := fin (s.endSession b)
        refine ⟨by simp, ?_, ?_, ?_, fun p => by rw [f1.port (by simp), E.frame.port (by simp)]; exact LinkPort.Kicked.refl _, ?_, ?_, (E.frame.mono (by simp)).trans (f1.mono (by simp))⟩
        · intro _; rw [ho]
          refine ⟨by rw [f2, E.bay], by rw [f1.boardAt (by simp)]; exact E.board.1, by rw [f1.increaseAt (by simp)]; exact E.increase.1, ?_⟩
          intro k e hd he; rw [f1.entry (by simp)]; exact E.linked k e hd he
        · intro a ha; exact ⟨(f3 a ha).trans (E.bays a ha), (f1.boardAt (by simp) a).trans (E.board.2 a ha), (f1.increaseAt (by simp) a).trans (E.increase.2 a ha)⟩
        · intro k hk; rw [f1.entry (by simp)]; exact E.entries k fun hd => hk rfl (namedSlot_of hs hd)
        · rw [f1 .dset (by simp)]; exact E.dset
        · rw [f1 .sset (by simp)]; exact E.sset

/-- The marks of R56 and the pending increase of bay `b`, where an OUTLETS message lists it or does not. -/
theorem outletDone_marks (s : State) (b : Fin 32) (cap : Option Nat) (hr : (s.bay b).reachable = true) :
    let t := match cap with | some v => s.fitOutlet b v | none => s.unfitOutlet b
    (∀ a, t.marked a = true ↔ s.marked a = true ∨
      (s.alloc.snap.isSome = true ∧ a = b ∧ ((s.bay b).occ = .unfitted ↔ cap.isSome = true))) ∧
    (¬ (cap = none ∧ (s.bay b).inSession = true) → t.pendingInc b = s.pendingInc b) ∧
    t.alloc.snap = s.alloc.snap := by
  have base : ∀ u v : State, SameBut [.bays] u v → u.alloc.snap = s.alloc.snap →
      (∀ a, u.marked a = true ↔ s.marked a = true ∨ (s.alloc.snap.isSome = true ∧ a = b) ∧ u.marked a = true) →
      ∀ a, (v.mark b).marked a = true ↔ s.marked a = true ∨ (s.alloc.snap.isSome = true ∧ a = b) := by
    intro u v f hs hm a
    rw [State.marked_mark, f.markAt (by simp), show v.alloc.snap = s.alloc.snap from (f .pass (by simp)).trans hs]
    have := hm a
    simp only [Bool.or_eq_true, Bool.and_eq_true, beq_iff_eq]
    tauto
  cases cap with
  | some v =>
    simp only [State.fitOutlet]
    by_cases hu : (s.bay b).occ = .unfitted
    · simp only [hu, if_true]
      have fb := s.setBay_frame b { s.bay b with occ := .vacant, pcap := v }
      have mf := State.mark_frame (s.setBay b { s.bay b with occ := .vacant, pcap := v }) b
      refine ⟨fun a => by rw [base s _ fb rfl (by tauto)]; simp, fun _ => ?_, (mf .pass (by simp)).trans (fb .pass (by simp))⟩
      rw [mf.increaseAt (by simp), fb.increaseAt (by simp)]
    · simp only [hu, if_false]
      have fb := s.setBay_frame b { s.bay b with pcap := v }
      have L := State.limitVehicle_spec (s := s.setBay b { s.bay b with pcap := v }) (b := b) (by simp [hr])
      have f : SameBut [.bays, .board, .ports, .sset] s ((s.setBay b { s.bay b with pcap := v }).limitVehicle b) := by
        split at L
        · exact (fb.mono (by simp)).trans L.frame
        · rw [L]; exact fb.mono (by simp)
      exact ⟨fun a => by rw [f.markAt (by simp)]; simp, fun _ => f.increaseAt (by simp) b, f .pass (by simp)⟩
  | none =>
    simp only [State.unfitOutlet]
    by_cases hu : (s.bay b).occ = .unfitted
    · simp [hu]
    · simp only [hu, if_false]
      cases ho : (s.bay b).session with
      | none =>
        rw [State.endSession_none ho]
        have fb := s.setBay_frame b { s.bay b with occ := .unfitted, pcap := 0 }
        have mf := State.mark_frame (s.setBay b { s.bay b with occ := .unfitted, pcap := 0 }) b
        refine ⟨fun a => by rw [base s _ fb rfl (by tauto)]; simp, fun _ => ?_, (mf .pass (by simp)).trans (fb .pass (by simp))⟩
        rw [mf.increaseAt (by simp), fb.increaseAt (by simp)]
      | some y =>
        have E := State.endSession_spec ho
        have fb := (s.endSession b).setBay_frame b { (s.endSession b).bay b with occ := .unfitted, pcap := 0 }
        have mf := State.mark_frame ((s.endSession b).setBay b { (s.endSession b).bay b with occ := .unfitted, pcap := 0 }) b
        refine ⟨fun a => ?_, fun h => absurd ⟨trivial, Bay.inSession_iff.mpr ⟨y, ho⟩⟩ h,
          (mf .pass (by simp)).trans ((fb .pass (by simp)).trans (E.frame .pass (by simp)))⟩
        rw [base _ _ fb (E.frame .pass (by simp)) fun c => ?_]
        · simp
        · rw [E.marks]; simp only [Bool.or_eq_true, Bool.and_eq_true, beq_iff_eq]; tauto

theorem listedCap_none {l : List (Byte × Nat)} {o : Fin 8} (h : ∀ r ∈ l, r.1.toNat ≠ o.val) : listedCap l o = none := by
  unfold listedCap; rw [Option.map_eq_none_iff, List.find?_eq_none]; intro r hr; simpa using h r hr

theorem listedCap_some {l : List (Byte × Nat)} {o : Fin 8} {r : Byte × Nat} (hn : (l.map (·.1)).Nodup) (hr : r ∈ l) (h : r.1.toNat = o.val) :
    listedCap l o = some (min 1500 r.2) := by
  unfold listedCap
  have : (l.find? fun r => r.1.toNat == o.val).isSome := by rw [List.find?_isSome]; exact ⟨r, hr, by simpa using h⟩
  obtain ⟨q, hq⟩ := Option.isSome_iff_exists.mp this
  have h1 := List.find?_some hq
  have h2 := List.mem_of_find?_eq_some hq
  have : q = r := by
    have e : q.1 = r.1 := by apply BitVec.eq_of_toNat_eq; rw [h]; simpa using h1
    exact List.inj_on_of_nodup_map hn h2 hr e
  rw [hq, this]; rfl

theorem outletsOk_iff (l : List (Byte × Nat)) : outletsOk l = true ↔ (∀ r ∈ l, r.1.toNat < 8) ∧ (l.map (·.1)).Nodup := by
  induction l with
  | nil => simp [outletsOk]
  | cons r rest ih =>
    obtain ⟨o, v⟩ := r
    simp only [outletsOk, Bool.and_eq_true, ih, List.map_cons, List.nodup_cons, List.forall_mem_cons, decide_eq_true_eq, Bool.not_eq_true', List.any_eq_false]
    simp only [List.mem_map, not_exists]
    constructor
    · rintro ⟨⟨h1, h2⟩, h3, h4⟩; exact ⟨⟨h1, h3⟩, fun x hx => by have := h2 x hx.1; simp [hx.2] at this, h4⟩
    · rintro ⟨⟨h1, h3⟩, h2, h4⟩; exact ⟨⟨h1, fun x hx => by simpa using fun e => h2 x ⟨hx, e⟩⟩, h3, h4⟩

end Sys2Proof.Machine
end

