-- ==== Sys2Proof/WellFormed.lean ====
section
/-!
DEFINITION. Which commands name an event the part has. The operand types already hold ports, cabinets and
characters within their ranges; one range is narrower than its type.
-/
namespace Sys2Proof

/-- A SLOT event is that of slot 1, 2 or 3: slot 0 has no time of its own, it is taken within PASS_COMPLETION
(R83). Every other command is well formed whatever its operands. -/
def Instr.wellFormed : Instr → Bool
  | .slot k => k != 0
  | _ => true

end Sys2Proof
end

