-- ==== Sys2Proof/Tests/Slice0.lean ====
section
/-!
SUPPORT. Tests of single steps, with expected values from the manual's worked sequences and rules (named at each test), and
for every statement with hypotheses a state and operands that meet them.
-/
namespace Sys2Proof.Tests
open Sys2Proof Sys2Proof.Machine

set_option maxRecDepth 100000

/-! ### Small states -/

/-- Four cabinets strapped, every pin high. -/
def fresh : State := State.powerOn 3 1 0xFF

/-- The state a command leaves. -/
def run (c : Instr) (s : State) : State :=
  match exec c s with
  | .next t => t
  | _ => State.reset

def msg (k : Kind) (unit : Byte) (payload : List Byte) : Msg := { kind := k.code, unit := unit, payload := payload }

/-- The port's only buffered item is message `m`. -/
def ask (p : Port) (m : Msg) (s : State) : State := s.setPort p { s.port p with buffers := [.message m] }

/-- The result set of the answer at the tail of the port's queue. -/
def result (p : Port) (s : State) : Option (List Byte) := (s.port p).queue.getLast?.map fun m => m.payload.drop 1

def rx (p : Port) (x : Receiver) (s : State) : State := s.setPort p { s.port p with rx := x }

def errors (p : Port) (n : Nat) (s : State) : State := s.setPort p { s.port p with errors := n, health := healthOf n }

def roster (k : Fin 64) (e : Entry) (s : State) : State :=
  (s.setEntry k (some e)).setIndex (tagEntry s.index.window e.tag) (some k)

def van (tag : Tag) (departure target cls : Nat) (state : EntryState) : Entry :=
  { tag := tag, departure := departure, target := target, cls := cls, barred := false, state := state, lastEnergy := none }

def visit (phase : Phase) (disp : Disposition) (tag : Tag) (pveh delivered : Nat) : Session :=
  { phase := phase, disp := disp, tag := tag, pveh := pveh, delivered := delivered, power := 0, last := none }

/-- A bay in session at the given setpoints, on its power-on slot. -/
def taken (b : Fin 32) (x : Session) (pcap published confirmed : Nat) (seq : Seq) : Bay :=
  { Bay.powerOn ⟨b.val % 4, by omega⟩ with
    occ := .session x, pcap := pcap, published := published, confirmed := confirmed, seq := seq }

def bay (b : Fin 32) (x : Session) (pcap published confirmed : Nat) (seq : Seq) (s : State) : State :=
  s.setBay b (taken b x pcap published confirmed seq)

/-- RUN between passes: the round timer and the silence timers run. -/
def running (s : State) : State :=
  { s with mode := .run, alloc := { s.alloc with timer := some 32 }
           cabinets := Vector.replicate 4 { silence := some 64, roundEnd := true, staleRounds := 0 } }

/-- P_site and other load, neither stale nor shed. -/
def site (pSite other rounds : Nat) (s : State) : State :=
  { s with env := { s.env with pSite := pSite, other := other, stale := false, rounds := rounds }
           sset := { s.sset with pending := 0, cond := 0 } }

/-- The given functions and GP0 level. -/
def pinned (fn : Byte) (gp0 : Bool) (s : State) : State := { s with pins := { s.pins with fn := fn, gp0 := gp0 } }

def clock (minute second : Nat) (s : State) : State :=
  { s with clock := { minute := minute, second := second, fraction := 0, overtaken := false } }

/-! ### Checks, well-formedness, the queue -/

/-- The reference value of section 6.9: the header of a KEEPALIVE. -/
theorem test_crc8_keepalive : crc8 [0x01, 0xFF, 0x00] = 0xBC := by decide

/-- The check value of the CRC-8 of R101 over "123456789". -/
theorem test_crc8_check : crc8 [0x31, 0x32, 0x33, 0x34, 0x35, 0x36, 0x37, 0x38, 0x39] = 0xF4 := by decide

/-- The check value of the CRC-16 of R102 over "123456789". -/
theorem test_crc16_check : crc16 [0x31, 0x32, 0x33, 0x34, 0x35, 0x36, 0x37, 0x38, 0x39] = 0x29B1 := by decide

/-- Slot 0 has no time of its own (R83), so a SLOT 0 event is ill formed. -/
theorem test_wellFormed_refuses_slot_0 : Sys2Proof.Instr.wellFormed (.slot 0) = false := by decide

theorem test_wellFormed_accepts_slot_3 : Sys2Proof.Instr.wellFormed (.slot 3) = true := by decide

/-- No word of the table spells a command (log 1). -/
theorem test_no_word_is_a_command : decodeTableWord 8 0x01 = none := by decide

theorem test_step_takes_the_front : ∃ t, step { fresh with pending := [.resetAsserted, .secondComplete] } = .next t ∧
    t.pending = [.secondComplete] ∧ t.resetLow = true := ⟨_, rfl, by decide, by decide⟩

/-! ### Section 6.13: a held D-port -/

/-- TAG WINDOW as a line carries it. -/
def tagWindow8 : Msg := msg .tagWindow 0xFF [8]

theorem test_messageComplete_accepts :
    ((run (.messageComplete .d) (rx .d (.receiving tagWindow8.line) (errors .d 10 fresh))).port .d).errors = 9 := by decide

/-- Event 3: a payload check that fails adds 8 and leaves a payload-failure entry. -/
theorem test_messageComplete_payload_failure :
    let t := run (.messageComplete .d) (rx .d (.receiving ([0x24, 0xFF, 0x01, crc8 [0x24, 0xFF, 0x01], 8, 0, 0]))
      (errors .d 8 fresh))
    (t.port .d).errors = 16 ∧ (t.port .d).buffers = [.failed 0x24 0xFF] := by decide

/-- Event 5: a bad header adds 8. -/
theorem test_headerFault :
    ((run (.headerFault .d) (rx .d (.receiving [0x24, 0xFF, 0x01, 0x00]) (errors .d 15 fresh))).port .d).errors = 23 := by
  decide

/-- Event 1: the rebuild begins unanswered, and the handler is HELD. -/
theorem test_tagWindow :
    let t := run (.tagWindow .d) (ask .d tagWindow8 fresh)
    t.handler .d = .held ∧ (t.port .d).queue = [] := by decide

/-- Event 8: the payload-failure entry is answered PAYLOAD CHECK. -/
theorem test_payloadCheck :
    let t := run (.payloadCheck .d) (fresh.setPort .d { LinkPort.powerOn with buffers := [.failed 0x20 0xFF] })
    (t.port .d).queue = [{ kind := 0x80, unit := 0xFF, payload := [0x20, 0x00, 0x01] }] := by decide

/-- R106, checks 2 and 3: a Kind outside the table. -/
theorem test_unknownKind : result .s (run (.unknownKind .s) (ask .s { kind := 0x77, unit := 5, payload := [] } fresh)) =
    some [0x00, 0x04] := by decide

/-! ### Characters (R100, R110) -/

theorem test_idleGapElapsed : ((run (.idleGapElapsed (.c 3)) fresh).port (.c 3)).rx = .ready := by decide

theorem test_characterReceived :
    ((run (.characterReceived (.c 1) 0x14) (rx (.c 1) .ready fresh)).port (.c 1)).rx = .receiving [0x14] := by decide

/-- A cabinet that is not strapped present has no port. -/
theorem test_characterReceived_absent :
    ((run (.characterReceived (.c 1) 0x14) (rx (.c 1) .ready (State.powerOn 0 1 0xFF))).port (.c 1)).rx = .ready := by decide

theorem test_framingError :
    let t := run (.framingError .s .gap) (rx .s (.receiving [0x40, 0xFF]) fresh)
    (t.port .s).errors = 8 ∧ (t.port .s).rx = .hunt false := by decide

/-- The head of the queue is sent when no board entry waits. -/
theorem test_endOfGap :
    let s := fresh.setPort .s { LinkPort.powerOn with queue := [msg .answer 0xFF [0x41, 0, 0]], tx := .gap }
    ((run (.endOfGap .s) s).port .s).tx = .sending (msg .answer 0xFF [0x41, 0, 0]) := by decide

/-- Section 8.10, event 8: the board entry of outlet 0 is sent as SETPOINT 60.0 kW, sequence 1. -/
theorem test_endOfGap_board :
    let s := (fresh.setBoard 8 (some (600, 1))).setPort (.c 1) { LinkPort.powerOn with tx := .gap }
    let t := run (.endOfGap (.c 1)) s
    (t.port (.c 1)).tx = .sending { kind := 0x90, unit := 0, payload := [0x02, 0x58, 1] } ∧ t.board 8 = none := by decide

theorem test_messageSent :
    ((run (.messageSent .s) (fresh.setPort .s { LinkPort.powerOn with tx := .sending (msg .answer 0xFF [0x41, 0, 0]) })).port
      .s).tx = .idle := by decide

/-! ### Section 1.9: loading and plugging on one evening -/

/-- A in slot 0 at W = 0; outlets 0 to 7 of cabinet 0 fitted at 110.0 kW. -/
def evening : State :=
  roster 0 (van 0x3A51C7 360 600 0 .waiting) { clock 180 0 fresh with
    bays := Vector.ofFn fun b => { fresh.bay b with occ := if b < 8 then .vacant else .unfitted
                                                    pcap := if b < 8 then 1100 else 0 } }

/-- Event 2: B shares A's index entry. -/
theorem test_rosterPut_collision :
    result .d (run (.rosterPut .d) (ask .d (msg .rosterPut 0xFF [0x12, 0x02, 0xC7, 0x01, 0xA4, 0x03, 0x84, 1, 0]) evening)) =
      some [0x00, 0x40] := by decide

/-- Event 3: C takes slot 1 and index entry 162. -/
theorem test_rosterPut :
    let t := run (.rosterPut .d) (ask .d (msg .rosterPut 0xFF [0x07, 0x40, 0xA2, 0x01, 0x86, 0x01, 0xC2, 0, 0]) evening)
    t.entry 1 = some (van 0x0740A2 390 450 0 .waiting) ∧ t.indexAt 162 = some 1 := by decide

/-- Event 5: under W = 8, A moves to index entry 81. -/
theorem test_indexRebuildEnd :
    let t := run .indexRebuildEnd { evening with rebuild := some { window := 8, clamped := false } }
    t.indexAt 81 = some 0 ∧ t.indexAt 199 = none ∧ t.index.window = 8 ∧ result .d t = some [0, 0] := by decide

/-- Event 8: A is ROSTERED at bay 3, slot 0. -/
theorem test_plug :
    let t := run (.plug (.c 0)) (ask (.c 0) (msg .plug 3 [0x3A, 0x51, 0xC7, 0x02, 0x58]) evening)
    t.namedSlot 3 = some 0 ∧ t.namedBay 0 = some 3 ∧ result (.c 0) t = some [0, 0, 1] := by decide

/-- Event 10: X is unknown, and REFUSED. -/
theorem test_plug_unknown :
    let t := run (.plug (.c 0)) (ask (.c 0) (msg .plug 4 [0x55, 0xAA, 0x10, 0x02, 0x58]) evening)
    (t.bay 4).session.map (·.phase) = some .barred ∧ t.dset.pending = 0x0008 ∧ result (.c 0) t = some [0, 0, 3] := by decide

/-- Event 12: A is PLUGGED. -/
theorem test_rosterDrop_in_use :
    result .d (run (.rosterDrop .d) (ask .d (msg .rosterDrop 0xFF [0x3A, 0x51, 0xC7])
      (evening.setEntry 0 (some (van 0x3A51C7 360 600 0 (.plugged 3 false)))))) = some [0x01, 0x00] := by decide

/-- Event 14: slot and index entry become free. -/
theorem test_rosterDrop :
    let t := run (.rosterDrop .d) (ask .d (msg .rosterDrop 0xFF [0x3A, 0x51, 0xC7]) evening)
    t.entry 0 = none ∧ t.indexAt 199 = none := by decide

/-- Event 13: A is WAITING again, with the energy delivered at bay 3. -/
theorem test_unplug :
    let s := bay 3 (visit .active (.rostered 0) 0x3A51C7 600 250) 1100 300 300 4
      (evening.setEntry 0 (some (van 0x3A51C7 360 600 0 (.plugged 3 false))))
    let t := run (.unplug (.c 0)) (ask (.c 0) (msg .unplug 3 []) s)
    t.entry 0 = some { van 0x3A51C7 360 600 0 .waiting with lastEnergy := some 250 } ∧ (t.bay 3).occ = .vacant := by decide

/-! ### Section 8.10: an evening on cabinet 1 -/

/-- Event 1: outlet 2 is listed at 160.0 kW. -/
theorem test_outlets :
    let t := run (.outlets (.c 1)) (ask (.c 1) (msg .outlets 0xFF
      [0, 0x04, 0x4C, 1, 0x04, 0x4C, 2, 0x06, 0x40, 3, 0x01, 0xF4]) fresh)
    (t.bay 10).pcap = 1500 ∧ (t.bay 11).pcap = 500 ∧ (t.bay 12).occ = .unfitted ∧
      result (.c 1) t = some [0x10, 0x00] := by decide

def cabinet1 : State :=
  running (bay 8 (visit .active .courtesy 0x000001 600 0) 1100 600 600 1
    (bay 11 (visit .active .courtesy 0x000002 400 0) 500 400 400 1 (site 2200 700 1 fresh)))

/-- Event 13: Pveh falls to 35.0 kW, the setpoint is cut at once, and sequence 1 is out of date. -/
theorem test_meter :
    let t := run (.meter (.c 1)) (ask (.c 1) (msg .meter 0 [1, 0, 90, 2, 0x50, 0x01, 0x5E, 2, 0x58, 1]) cabinet1)
    (t.bay 8).published = 350 ∧ (t.bay 8).confirmed = 600 ∧ (t.bay 8).seq = 2 ∧ t.board 8 = some (350, 2) := by decide

/-- Section 7.12, event 10: the resync METER adopts 40.0 kW, sequence 3. -/
theorem test_meter_resync :
    let x := taken 16 (visit .active .courtesy 0x000003 600 0) 1100 450 450 2
    let s := running ((site 2200 700 1 fresh).setBay 16 { x with resync := true })
    let t := run (.meter (.c 2)) (ask (.c 2) (msg .meter 0 [1, 0, 90, 1, 0x90, 2, 0x58, 1, 0x90, 3]) s)
    (t.bay 16).published = 400 ∧ (t.bay 16).confirmed = 400 ∧ (t.bay 16).seq = 3 ∧ (t.bay 16).resync = false := by decide

/-- Event 14: bay 11 is published 0.0 kW, sequence 2, and keeps its allowance. -/
theorem test_outletFault :
    let t := run (.outletFault (.c 1)) (ask (.c 1) (msg .outletFault 3 [17]) cabinet1)
    t.board 11 = some (0, 2) ∧ t.total = 1000 ∧ t.sset.pending = 0x0040 := by decide

/-- Event 10: the sequence matches. -/
theorem test_applied :
    let s := cabinet1.setBay 8 { cabinet1.bay 8 with confirmed := 0 }
    ((run (.applied (.c 1)) (ask (.c 1) (msg .applied 0 [2, 0x58, 1]) s)).bay 8).confirmed = 600 := by decide

/-- Event 6. -/
theorem test_roundEnd :
    ((run (.roundEnd (.c 1)) (ask (.c 1) (msg .roundEnd 0xFF []) fresh)).cabinet 1).roundEnd = true := by decide

/-- A KEEPALIVE frees its buffer and is not answered (R138). -/
theorem test_keepalive :
    let t := run (.keepalive (.c 1)) (ask (.c 1) (msg .keepalive 0xFF []) fresh)
    (t.port (.c 1)).buffers = [] ∧ (t.port (.c 1)).queue = [] := by decide

/-! ### Section 7.12: noise, detach and rejoin -/

/-- Event 2: the seventeenth damaged message detaches the port. -/
theorem test_detach :
    let t := run (.headerFault (.c 1)) (rx (.c 1) (.receiving [0x13, 0, 10, 0]) (errors (.c 1) 248 cabinet1))
    (t.port (.c 1)).health = .detached ∧ (t.bay 8).reachable = false ∧ (t.bay 8).published = 600 ∧
      t.sset.pending = 0x0004 := by decide

/-- Event 8: the sixteenth KEEPALIVE. -/
theorem test_rejoin :
    let s := (errors (.c 1) 255 cabinet1).setPort (.c 1)
      { LinkPort.powerOn with rx := .receiving [0x01, 0xFF, 0x00, 0xBC], errors := 255, health := .detached, rejoin := 15 }
    let t := run (.messageComplete (.c 1)) s
    (t.port (.c 1)).health = .sound ∧ (t.bay 8).resync = true := by decide

theorem test_silenceTimerExpiry :
    ((run (.silenceTimerExpiry 1) cabinet1).port (.c 1)).errors = 255 := by decide

/-- R125: bays 8 and 11 become VACANT, and their reserve of 100.0 kW is freed. -/
theorem test_releaseCabinet :
    let t := run (.releaseCabinet .s) (ask .s (msg .releaseCabinet 1 []) (errors (.c 1) 255 cabinet1))
    t.total = 0 ∧ (t.bay 8).occ = .vacant ∧ (t.bay 11).occ = .vacant := by decide

/-! ### Section 2.6: departures across a clock correction -/

def night : State :=
  running (roster 0 (van 0x000010 360 600 0 (.plugged 9 false)) (roster 1 (van 0x000011 361 600 0 .waiting)
    (bay 9 (visit .active (.rostered 0) 0x000010 600 0) 1100 0 0 0 (clock 359 59 (site 2500 700 1 fresh)))))

/-- Event 1: P is overdue, Q waits. -/
theorem test_secondComplete :
    let t := run .secondComplete night
    t.clock.minute = 360 ∧ (t.entry 0).map (·.state) = some (.plugged 9 true) ∧
      (t.entry 1).map (·.state) = some .waiting ∧ t.dset.pending = 0x0001 := by decide

/-- Event 7: the minute is held at 4095. -/
theorem test_minuteEvent :
    (run .minuteEvent (clock 4095 59 fresh)).clock = { minute := 4095, second := 0, fraction := 0, overtaken := false } := by
  decide

/-- R35: a CLOCK SET to 358:05 is taken first; the minute event that came with it advances to 359, and a second one there
is not. -/
theorem test_minuteEvent_overtaken :
    let t := run .minuteEvent (run (.clockSet .d) (ask .d (msg .clockSet 0xFF [0x01, 0x66, 5]) (clock 300 59 fresh)))
    t.clock.minute = 359 ∧ t.clock.second = 5 ∧ (run .minuteEvent t).clock.minute = 359 := by decide

/-- R29: the pulse counts the minute, and the second counter stays. -/
theorem test_minutePulse : (run .minutePulse (pinned 0x02 true (clock 360 0 fresh))).clock.minute = 361 := by decide

/-- Event 6: both fields are clamped, and every entry not PLUGGED departs. -/
theorem test_clockSet :
    let t := run (.clockSet .d) (ask .d (msg .clockSet 0xFF [0x10, 0x68, 70]) night)
    t.clock.minute = 4095 ∧ t.clock.second = 59 ∧ (t.entry 1).map (·.state) = some .departed ∧
      result .d t = some [0x10, 0x00] := by decide

/-! ### Section 3.10: report, shed and staleness in one evening -/

/-- Event 4 of the section. -/
def shedding : State :=
  running (pinned 0x01 true (bay 0 (visit .active .courtesy 0x000001 1100 0) 1100 800 800 2
    (bay 1 (visit .active .courtesy 0x000002 1100 0) 1100 455 455 2
      (bay 2 (visit .active .courtesy 0x000003 1100 0) 1100 295 295 2 (site 2500 950 1 fresh)))))

/-- Event 5: the halved setpoints 40.0, 22.7 and 14.7 kW; Env 77.5 kW; SHED ACTIVE and ENVELOPE EXCEEDED. -/
theorem test_shedAssertion :
    let t := run .shedAssertion shedding
    (t.bay 0).published = 400 ∧ (t.bay 1).published = 227 ∧ (t.bay 2).published = 147 ∧ t.env.inForce = 775 ∧
      t.sset.cond = 0x0003 ∧ t.alloc.snap.isSome = true := by decide

/-- Event 10. -/
theorem test_shedRelease :
    let s := pinned 0x01 false { shedding with env := { shedding.env with shed := true } }
    (run .shedRelease s).env.inForce = 1550 := by decide

/-- Event 1: LOAD REPORT 95.0 begins ENVELOPE EXCEEDED and an early round. -/
theorem test_loadReport :
    let s := bay 3 (visit .active .courtesy 0x000004 1100 0) 1100 250 250 2 (site 2500 700 1 shedding)
    let t := run (.loadReport .s) (ask .s (msg .loadReport 0xFF [0x03, 0xB6]) s)
    t.env.inForce = 1550 ∧ t.sset.cond = 0x0001 ∧ t.alloc.snap.isSome = true ∧ t.env.rounds = 1 := by decide

/-- Event 8: the third round start without a report; O_eff 126.2 kW, Env 61.9 kW. -/
theorem test_roundTimerExpiry :
    let s := { shedding with env := { shedding.env with shed := true, rounds := 2 } }
    let t := run .roundTimerExpiry s
    t.env.effective = 1262 ∧ t.env.inForce = 619 ∧ t.env.stale = true := by decide

/-- Section 10.6, event 2: SITE LIMIT 200.0 while load-stale: Env 175.0 kW. -/
theorem test_siteLimit :
    let t := run (.siteLimit .s) (ask .s (msg .siteLimit 0xFF [0x07, 0xD0]) fresh)
    t.env.inForce = 1750 ∧ t.alloc.snap = none := by decide

theorem test_rampLimit :
    (run (.rampLimit .s) (ask .s (msg .rampLimit 0xFF [0x00, 0xC8]) fresh)).env.ramp = 200 := by decide

/-! ### Sections 4.7 and 5.14: the reference pass and the worked round -/

/-- The five bays of section 4.7 at N = 600: need, Plim, departure and class as its table has them. -/
def reference : State :=
  running (clock 600 0
    (roster 0 (van 0x000010 1050 1200 0 (.plugged 0 false)) (roster 1 (van 0x000011 780 1000 0 (.plugged 1 false))
    (roster 2 (van 0x000012 700 800 1 (.plugged 2 false)) (roster 3 (van 0x000013 640 40 0 (.plugged 3 false))
    (bay 0 (visit .active (.rostered 0) 0x000010 1100 0) 1100 0 0 0
    (bay 1 (visit .active (.rostered 1) 0x000011 500 0) 1100 0 0 0
    (bay 2 (visit .active (.rostered 2) 0x000012 500 0) 1100 0 0 0
    (bay 3 (visit .active (.rostered 3) 0x000013 1100 0) 1100 0 0 0
    (bay 4 (visit .active .courtesy 0x000014 220 0) 1100 0 0 0 (site 2500 700 1 fresh)))))))))))

/-- Grants 16.6, 36.4, 50.0, 77.0 and 0.0 kW; service order 3, 1, 0, 2, 4; AT RISK. -/
theorem test_passCompletion :
    let t := run .passCompletion (run .roundTimerExpiry reference)
    (List.finRange 5).map (fun b => ((t.bay ⟨b.val, by omega⟩).session.bind (·.last)).map (·.grant)) =
        [some 166, some 364, some 500, some 770, some 0] ∧
      t.alloc.order = [3, 1, 0, 2, 4] ∧ t.dset.cond = 0x0002 ∧ t.alloc.snap = none := by decide

/-- The service order and, at its head, the figures of bay 2: laxity −11, at-risk, demand 50.0 kW. -/
theorem test_reference_figures :
    ((run .roundTimerExpiry reference).alloc.snap.bind (·.figures 2)).map (fun f => (f.laxity, f.atRisk, f.demand)) =
      some (-11, true, 500) := by decide

/-- Section 5.14 after event 3, with the increases of bays 1 and 3 pending. -/
def round : State :=
  running (((bay 0 (visit .active .courtesy 0x000010 1100 0) 1100 400 400 6
    (bay 1 (visit .active .courtesy 0x000011 1100 0) 1100 400 400 2
    (bay 2 (visit .active .courtesy 0x000012 1100 0) 1100 500 500 4
    (bay 3 (visit .active .courtesy 0x000013 1100 0) 1100 200 200 7
      { site 2500 700 1 fresh with
        env := { pSite := 2500, other := 700, stale := false, rounds := 1, shed := false, ramp := 200 }
        alloc := { fresh.alloc with order := [3, 1, 0, 2] }
        pub := { fresh.pub with slotTimes := [(1, 8), (2, 16), (3, 24)] } })))).setPendingInc 1 (some 650)).setPendingInc 3
      (some 250))

/-- Event 4: the ramp limit leaves 60.0 kW, sequence 3. -/
theorem test_slot :
    let t := run (.slot 1) round
    (t.bay 1).published = 600 ∧ (t.bay 1).seq = 3 ∧ t.total = 1700 ∧ t.pendingInc 1 = none ∧ t.pendingInc 3 = some 250 := by
  decide

/-- Event 8: the sequence wraps from 7 to 0. R86: with bay 3 in slot 1 too, its 5.0 kW leave bay 1 a budget of 15.0 kW. -/
theorem test_slot_wraps :
    let t := run (.slot 3) round
    let u := run (.slot 1) (round.setBay 3 { round.bay 3 with slot := 1 })
    (t.bay 3).published = 250 ∧ (t.bay 3).seq = 0 ∧ (u.bay 3).published = 250 ∧ (u.bay 1).published = 550 := by decide

/-! ### Settings, modes, notices, reads, pins, reset -/

/-- R143: guard above 240 is clamped. -/
theorem test_vanPolicy :
    let t := run (.vanPolicy .d) (ask .d (msg .vanPolicy 0xFF [1, 250]) fresh)
    t.settings.courtesy = true ∧ t.settings.guard = 240 ∧ result .d t = some [0x10, 0x00] := by decide

/-- R111: below 6 becomes 6. -/
theorem test_replyLimit :
    let t := run (.replyLimit .s) (ask .s (msg .replyLimit 0xFF [5]) fresh)
    t.settings.limitS = 6 ∧ t.settings.limitD = 24 := by decide

/-- R149: 50.0 kW is kept, 30 s becomes 28 s. -/
theorem test_allocationSetup :
    let t := run (.allocationSetup .s) (ask .s (msg .allocationSetup 0xFF [0x01, 0xF4, 30]) fresh)
    t.settings.pmin = 500 ∧ t.settings.roundLength = 28 ∧ result .s t = some [0x10, 0x00] := by decide

/-- R149: the Pmin set governs from the entry to RUN on. -/
theorem test_allocationSetup_governs :
    let s := run (.allocationSetup .s) (ask .s (msg .allocationSetup 0xFF [0x01, 0xF4, 32]) fresh)
    let t := run (.modeRequest .s) (ask .s (msg .modeRequest 0xFF [1]) s)
    s.settings.pminInForce = 40 ∧ t.settings.pminInForce = 500 ∧ t.alloc.snap.map (·.pmin) = some 500 := by decide

theorem test_slotAssign :
    ((run (.slotAssign .s) (ask .s (msg .slotAssign 31 [2]) fresh)).bay 31).slot = 2 := by decide

/-- R172, R42: GP0 dedicated at a low level brings the shed. -/
theorem test_pinSetup :
    let t := run (.pinSetup .s 0xFE) (ask .s (msg .pinSetup 0xFF [0x01, 0xF0]) fresh)
    t.env.shed = true ∧ t.pins.dir = 0xF0 ∧ t.sset.pending = 0x0012 := by decide

theorem test_pinWrite :
    (run (.pinWrite .s) (ask .s (msg .pinWrite 0xFF [0xA5]) fresh)).pins.latch = 0xA5 := by decide

/-- Section 10.6, event 8: RUN starts the silence timer and a round. -/
theorem test_modeRequest :
    let t := run (.modeRequest .s) (ask .s (msg .modeRequest 0xFF [1]) (site 2000 400 0 fresh))
    t.mode = .run ∧ (t.cabinet 0).silence = some 64 ∧ t.alloc.snap.isSome = true ∧ t.env.rounds = 1 := by decide

/-- R158, R95: CONFIGURE zeroes the published setpoints. -/
theorem test_modeRequest_configure :
    let t := run (.modeRequest .s) (ask .s (msg .modeRequest 0xFF [0]) cabinet1)
    t.mode = .configure ∧ t.board 8 = some (0, 2) ∧ (t.bay 8).confirmed = 600 := by decide

/-- R162: the bays are UNFITTED; the clock and the answer queue of the S-port stay. -/
theorem test_restart :
    let t := run (.restart .s) (ask .s (msg .restart 0xFF []) night)
    (t.bay 9).occ = .unfitted ∧ (t.entry 0).map (·.state) = some .waiting ∧ t.clock.minute = 359 ∧
      result .s t = some [0, 0] := by decide

/-- Section 11.7, event 7: SATISFIED alone pending; its enable brings code 5 and the line. -/
theorem test_noticeEnable :
    let s := { fresh with dset := { pending := 0x0010, enable := 0x000B, cond := 0 } }
    let t := run (.noticeEnable .d) (ask .d (msg .noticeEnable 0xFF [0x00, 0x1B]) s)
    s.alertD = false ∧ t.dset.code = 5 ∧ t.alertD = true := by decide

/-- Section 11.7, event 3: UNKNOWN VAN clears, AT RISK stands. -/
theorem test_noticeClear :
    let s := { fresh with dset := { pending := 0x000A, enable := 0x000B, cond := 0x0002 } }
    let t := run (.noticeClear .d) (ask .d (msg .noticeClear 0xFF [0x00, 0x0A]) s)
    t.dset.pending = 0x0002 ∧ t.dset.code = 2 := by decide

/-- Section 9.8, step 1: at limit 60 a reply carries slots 0 to 3, and the next index is 4. R112: at the power-on limit of
24 one BAY record of 20 bytes fits, and after the last bay the next index is 0xFF. -/
theorem test_read :
    let s := { fresh with settings := { fresh.settings with limitD := 60 } }
    let t := run (.read .d { levels := 0xFF, rise := false }) (ask .d (msg .read 0 [2]) s)
    let u := run (.read .s { levels := 0xFF, rise := false }) (ask .s (msg .read 31 [1]) fresh)
    (t.port .d).queue.map (fun m => (m.kind, m.payload.length, m.payload.take 3)) = [(0x81, 59, [2, 0, 4])] ∧
    (u.port .s).queue.map (fun m => (m.payload.length, m.payload.take 3)) = [(23, [1, 31, 0xFF])] := by decide

/-- R173: a high level on a dedicated GP1 does not show before its filter has recognised the edge, and shows then. -/
theorem test_read_level :
    let s := { pinned 0x02 true fresh with pins := { (pinned 0x02 true fresh).pins with gp1 := false } }
    let levels := fun rise =>
      ((run (.read .d { levels := 0xFF, rise := rise }) (ask .d (msg .read 0 [0]) s)).port .d).queue.map (·.payload[12]!)
    levels false = [0xFD] ∧ levels true = [0xFF] := by decide

theorem test_resetAsserted :
    let t := run .resetAsserted (run .roundTimerExpiry reference)
    t.resetLow = true ∧ t.alloc.snap = none ∧ t.alertS = false := by decide

/-- Section 10.6, event 1: LOAD STALE pending, and one cabinet strapped. -/
theorem test_resetRelease :
    let t := run (.resetRelease 0 1 0xFF) (run .resetAsserted reference)
    t.sset.pending = 0x0010 ∧ t.present (.c 0) = true ∧ t.present (.c 1) = false ∧ t.mode = .configure := by decide

/-! ### States that meet the hypotheses of the statements

One theorem for each statement with hypotheses: a state and operands for each of its clauses. -/

theorem entry_all {s : State} {p : Fin 64 → Entry → Bool} (h : ∀ i, (s.entry i).all (p i) = true) (i : Fin 64) (f : Entry)
    (hf : s.entry i = some f) : p i f = true := by
  have := h i
  rwa [hf, Option.all_some] at this

theorem no_tag {s : State} {tag : Tag} (h : ∀ i, (s.entry i).all (fun f => f.tag != tag) = true) :
    ∀ j e, s.entry j = some e → e.tag ≠ tag := fun j e he => by
  simpa using entry_all (p := fun _ f => f.tag != tag) h j e he

theorem only_tag {s : State} {tag : Tag} {j : Fin 64}
    (h : ∀ i, (s.entry i).all (fun f => f.tag != tag || i == j) = true) :
    ∀ i f, s.entry i = some f → f.tag = tag → i = j := fun i f hf ht => by
  simpa [ht] using entry_all (p := fun i f => f.tag != tag || i == j) h i f hf

theorem rosterOk_of {s : State} (h : ∀ b, (s.namedSlot b).all (fun k => s.namedBay k == some b) = true)
    (h' : ∀ k, (s.namedBay k).all (fun b => s.namedSlot b == some k) = true) : s.RosterOk := by
  intro b k
  constructor <;> intro e
  · have := h b
    rw [e] at this
    simpa using this
  · have := h' k
    rw [e] at this
    simpa using this

/-- The part in RUN at minute 600, with bays and entries in every state that R1 and R5 name. -/
def yard : State :=
  let s := running (clock 600 0
    (roster 0 (van 0x3A51C7 1050 1200 0 (.plugged 0 false)) (roster 1 (van 0x0740A2 780 1000 0 .waiting)
    (roster 2 { van 0x55AA12 700 800 1 .waiting with barred := true } (roster 3 (van 0x000003 100 400 2 .departed)
    (roster 4 (van 0x000004 800 300 3 (.plugged 7 false)) (site 2500 700 1 fresh)))))))
  let s := bay 1 (visit .active .courtesy 0x55AA10 220 0) 1100 0 0 0
    (bay 3 (visit (.fault 7) .courtesy 0x55AA11 220 10) 1100 0 50 1
    (bay 4 (visit .barred .refused 0x55AA12 220 0) 1100 0 0 0 (bay 5 (visit .barred .duplicate 0x3A51C7 220 0) 1100 0 0 0
    (bay 7 (visit .satisfied (.rostered 4) 0x000004 220 300) 1100 0 0 0
    (bay 8 (visit .barred .refused 0x55AA12 220 0) 1100 0 0 0
    (s.setBay 2 { Bay.powerOn 2 with occ := .vacant, pcap := 1100 }))))))
  let last : PassResult := { grant := 450, late := false, atRisk := true, belowMin := false, laxity := -11 }
  let s := s.setBay 0 (taken 0 { visit .active (.rostered 0) 0x3A51C7 800 100 with last := some last } 1100 400 400 5)
  { s with alloc := { s.alloc with order := [0] }
           pub := { s.pub with pending := s.pub.pending.set 0 (some 450), slotTimes := [(1, 8), (2, 16), (3, 24)] }
           dset := { pending := 0x0002, enable := 0x000B, cond := 0x0002 } }

/-- `yard` in CONFIGURE, as an entry to CONFIGURE leaves timers, order and increases. -/
def yardConfigure : State :=
  { yard.dropIncreases with
    mode := .configure
    alloc := { yard.alloc with timer := none, order := [] }
    pub := { yard.dropIncreases.pub with slotTimes := [] }
    cabinets := Vector.replicate 4 { silence := none, roundEnd := true, staleRounds := 0 } }

def low : State := { fresh with resetLow := true }

/-- Cabinet 0's port is DETACHED, its bays unreachable. -/
def cut : State := (errors (.c 0) 255 yard.dropIncreases).mapBays fun b x => { x with reachable := decide (8 ≤ b.val) }

/-! #### The machine -/

theorem witness_StepRunsTheFrontCommand :
    ({ fresh with pending := [.secondComplete, .minuteEvent] }).pending = .secondComplete :: [.minuteEvent] := rfl

theorem witness_EmptyQueueCountsOnePeriod :
    fresh.pending = [] ∧ low.pending = [] ∧ low.resetLow = true ∧ (pinned 0x02 true fresh).pending = [] ∧
      (pinned 0x02 true fresh).dedicated 1 = true ∧ fresh.resetLow = false ∧ fresh.dedicated 1 = false := by decide

theorem witness_CommandsKeepTheQueue : ∃ t, exec .secondComplete fresh = .next t := ⟨_, rfl⟩

theorem witness_ResetLowStopsTheRest :
    low.resetLow = true ∧ ∀ cabs baud pins, Instr.secondComplete ≠ .resetRelease cabs baud pins := ⟨rfl, nofun⟩

theorem witness_ResetReleaseTakesPowerOnValues : low.resetLow = true := rfl

theorem witness_ResetAssertedLosesWhatIsInFlight : (run .roundTimerExpiry yard).resetLow = false := by decide

/-! #### Characters and messages on a line -/

theorem witness_CharactersOpenAndFillAMessage :
    fresh.listens (.c 3) = true ∧ (fresh.port (.c 3)).rx = .hunt false ∧ (rx .d .ready fresh).listens .d = true ∧
      ((rx .d .ready fresh).port .d).rx = .ready ∧
      (rx .s (.receiving ([0x31, 0xFF, 0x01, crc8 [0x31, 0xFF, 0x01]])) fresh).listens .s = true ∧
      headerBad [0x31, 0xFF, 0x01, crc8 [0x31, 0xFF, 0x01]] = false ∧
      fullLength [0x31, 0xFF, 0x01, crc8 [0x31, 0xFF, 0x01]] = false ∧ headerBad [0x31] = false ∧
      fullLength [0x31] = false ∧
    -- a bad header and a whole message are due, and every other receiver meets no further condition
    (∀ x, x ∈ [Receiver.receiving [0x31, 0xFF, 0x01, 0x00], .receiving (msg .keepalive 0xFF []).line, .hunt true] →
      (rx (.c 0) x fresh).listens (.c 0) = true ∧ ((rx (.c 0) x fresh).port (.c 0)).rx = x) ∧
    headerBad [0x31, 0xFF, 0x01, 0x00] = true ∧ headerBad (msg .keepalive 0xFF []).line = false ∧
      fullLength (msg .keepalive 0xFF []).line = true ∧
    -- one cabinet strapped present: C1 is the first port that ignores its line
    (State.powerOn 0 1 0xFF).straps.cabs.toNat < (1 : Fin 4).val := by decide

theorem witness_LineRoundTrip :
    (msg .keepalive 0xFF []).payload.length ≤ 60 ∧ (msg .outlets 0xFF (List.replicate 60 0)).payload.length ≤ 60 ∧
      65 < (msg .outlets 0xFF (List.replicate 60 0)).line.length := by decide

theorem witness_RejectionCountsEight :
    let s := errors (.c 0) 246 yard
    (∀ x, x ∈ [Receiver.ready, .hunt true, .receiving [0x31, 0xFF, 0x01, 0x00], .receiving [0x40, 0xFF],
        .receiving [0x31, 0xFF, 61, crc8 [0x31, 0xFF, 61]]] →
      (rx (.c 0) x s).listens (.c 0) = true ∧ ((rx (.c 0) x s).port (.c 0)).rx = x ∧
        ((rx (.c 0) x s).port (.c 0)).health ≠ .detached ∧ ((rx (.c 0) x s).port (.c 0)).errors + 8 < 255) ∧
    crc8 [0x31, 0xFF, 0x01] ≠ 0x00 ∧ 60 < (61 : Byte).toNat ∧ headerBad [0x40, 0xFF] = false ∧
      fullLength [0x40, 0xFF] = false := by decide

theorem witness_GoodMessageIsAccepted :
    let m := msg .outlets 0xFF (List.replicate 60 1)
    let s := rx (.c 0) (.receiving m.line) (errors (.c 0) 254 yard)
    let full := (rx .d (.receiving m.line) yard).setPort .d { (rx .d (.receiving m.line) yard).port .d with
      buffers := [.message m, .message m] }
    (s.listens (.c 0) = true ∧ (s.port (.c 0)).health ≠ .detached ∧ (s.port (.c 0)).errors ≤ 255 ∧ m.payload.length ≤ 60 ∧
      (s.port (.c 0)).rx = .receiving m.line ∧ s.mode ≠ .configure ∧ (s.port (.c 0)).buffers.length < 2) ∧
    full.listens .d = true ∧ (full.port .d).health ≠ .detached ∧ (full.port .d).errors ≤ 255 ∧
      (full.port .d).rx = .receiving m.line ∧ 2 ≤ (full.port .d).buffers.length := by decide

theorem witness_PayloadFailureIsRejected :
    let s := rx .d (.receiving ([0x31, 0xFF, 0x01, crc8 [0x31, 0xFF, 0x01]] ++ [7] ++ [0, 0])) (errors .d 246 yard)
    s.listens .d = true ∧ (s.port .d).health ≠ .detached ∧ (s.port .d).errors + 8 < 255 ∧
      (s.port .d).rx = .receiving ([0x31, 0xFF, 0x01, crc8 [0x31, 0xFF, 0x01]] ++ [7] ++ [0, 0]) ∧
      ([7] : List Byte).length = (0x01 : Byte).toNat ∧ ([0, 0] : List Byte) ≠ byte2 (crc16 [7]).toNat := by decide

/-- A message whose payload check does not match. -/
def damaged : List Byte := [0x31, 0xFF, 0x01, crc8 [0x31, 0xFF, 0x01]] ++ [7] ++ [0, 0]

theorem damaged_rejected {s : State} {p : Port} (h : (s.port p).rx = .receiving damaged) :
    Rejection s p (.messageComplete p) (.hunt true) :=
  .payload 0x31 0xFF 0x01 _ 0 0 [7] h rfl (by decide) (by decide) (by decide) (by decide)

/-- Every cause of a rejection comes about, on the port that holds the receiver. -/
theorem rejection_of (s : State) (p : Port) :
    Rejection (rx p (.receiving [0x31, 0xFF, 0x01, 0x00]) s) p (.headerFault p) (.hunt false) ∧
    Rejection (rx p (.receiving [0x40, 0xFF]) s) p (.framingError p .gap) (.hunt false) ∧
    Rejection (rx p .ready s) p (.framingError p .lowStop) (.hunt false) ∧
    Rejection (rx p (.hunt true) s) p (.framingError p .afterComplete) (.hunt false) ∧
    Rejection (rx p (.hunt true) s) p (.characterReceived p 0) (.hunt false) ∧
    Rejection (rx p (.receiving damaged) s) p (.messageComplete p) (.hunt true) := by
  have h : ∀ x, ((rx p x s).port p).rx = x := fun x => by simp [rx]
  exact ⟨.header _ (h _) (by decide), .framing _ _ (h _) (by decide) (by decide) (.inl rfl), .opening (h _),
    .after _ (h _) (.inl rfl), .character _ (h _), damaged_rejected (h _)⟩

/-- The receiver of port `p` stands as each cause needs it, and link health as given. -/
theorem witness_DetachTakesEffect :
    (yard.resetLow = false ∧ (yard.cabinet 3).silence = some 64) ∧
    ∀ x, x ∈ [Receiver.receiving [0x31, 0xFF, 0x01, 0x00], .receiving [0x40, 0xFF], .ready, .hunt true,
        .receiving damaged] →
      let s := rx (.c 0) x (errors (.c 0) 247 yard)
      s.listens (.c 0) = true ∧ (s.port (.c 0)).health ≠ .detached ∧ 255 ≤ (s.port (.c 0)).errors + 8 := by decide

theorem witness_DetachedPortCountsKeepalives :
    let m := msg .keepalive 0xFF []
    let n := msg .roundEnd 0xFF []
    (∀ k, k ∈ [14, 15] →
      let s := (rx (.c 0) (.receiving m.line) cut).setPort (.c 0)
        { (rx (.c 0) (.receiving m.line) cut).port (.c 0) with rejoin := k }
      s.listens (.c 0) = true ∧ (s.port (.c 0)).health = .detached ∧ (s.port (.c 0)).rx = .receiving m.line ∧
        (s.port (.c 0)).rejoin = k) ∧
    m.kind = Kind.keepalive.code ∧ n.kind ≠ Kind.keepalive.code ∧
      ((rx (.c 0) (.receiving n.line) cut).port (.c 0)).rx = .receiving n.line ∧
    ∀ x, x ∈ [Receiver.receiving [0x31, 0xFF, 0x01, 0x00], .receiving [0x40, 0xFF], .ready, .hunt true,
        .receiving damaged] →
      (rx (.c 0) x cut).listens (.c 0) = true ∧ ((rx (.c 0) x cut).port (.c 0)).health = .detached := by decide

/-- Port `p` in GAP. -/
def inGap (p : Port) (s : State) : State := s.setPort p { s.port p with tx := .gap }

theorem witness_EndOfGapChoosesTheMessage :
    let s := inGap (.c 0) ((yard.setBoard 5 (some (400, 6))).setBoard 7 (some (0, 1)))
    (s.resetLow = false ∧ (s.port (.c 0)).tx = .gap ∧ cabinetOf 5 = 0 ∧ s.board 5 = some (400, 6) ∧
      ∀ a, a < 5 → cabinetOf a = 0 → s.board a = none) ∧
    ((inGap (.c 0) yard).port (.c 0)).tx = .gap ∧ (∀ b, cabinetOf b = 0 → (inGap (.c 0) yard).board b = none) ∧
      ((inGap .d yard).port .d).tx = .gap := by decide

theorem witness_MessageSentGoesOnOrRests :
    let s := yard.setPort .s { yard.port .s with tx := .sending (msg .answer 0xFF [0x40, 0, 0]) }
    s.resetLow = false ∧ (s.port .s).tx = .sending (msg .answer 0xFF [0x40, 0, 0]) ∧
      (s.port .s).health ≠ .detached := by decide

/-! #### The handler -/

theorem witness_FailedItemsAreAnswered :
    (yard.setPort .d { yard.port .d with buffers := [.failed 0x20 0xFF] }).Offers .d (.failed 0x20 0xFF) ∧
    (let m : Msg := { kind := 0x17, unit := 0xFF, payload := [] }
     (ask (.c 0) m yard).Offers (.c 0) (.message m) ∧ ∀ k, k ∈ Kind.all → k.code ≠ m.kind) ∧
    (let m := msg .setpoint 0xFF []
     (ask (.c 0) m yard).Offers (.c 0) (.message m) ∧ m.kind = 0x90) := by decide

theorem witness_HandlerChecksComeFirst :
    (handled (.meter .s) = some (.s, .meter) ∧ (ask .s (msg .meter 0 []) yard).Takes .s .meter (msg .meter 0 []) ∧
      Kind.meter.accepts .s = false) ∧
    (handled (.plug (.c 1)) = some (.c 1, .plug) ∧ (ask (.c 1) (msg .plug 8 [0, 0, 1, 0]) yard).Takes (.c 1) .plug
        (msg .plug 8 [0, 0, 1, 0]) ∧
      Kind.plug.accepts (.c 1) = true ∧ Kind.plug.lengthOk 4 = false) ∧
    ((ask (.c 1) (msg .plug 8 [0, 0, 1, 0, 0]) yard).Takes (.c 1) .plug (msg .plug 8 [0, 0, 1, 0, 0]) ∧
      Kind.plug.lengthOk 5 = true ∧ Kind.plug.unitOk 8 = false) := by decide

theorem witness_HandlerWaits :
    handled (.clockSet .d) = some (.d, .clockSet) ∧
      ({ yardConfigure with rebuild := some { window := 8, clamped := false } }).handler .d ≠ .ready ∧
      (∀ m, (yard.port .d).buffers.head? = some (.message m) → m.kind ≠ Kind.clockSet.code) := by
  refine ⟨by decide, by decide, fun m h => ?_⟩
  rw [show (yard.port .d).buffers = [] from by decide] at h
  cases h

/-! #### Cabinet messages -/

theorem witness_KeepaliveRoundEndAndApplied :
    (ask .d (msg .keepalive 0xFF []) yard).Takes .d .keepalive (msg .keepalive 0xFF []) ∧
    (ask (.c 3) (msg .roundEnd 0xFF []) yard).Takes (.c 3) .roundEnd (msg .roundEnd 0xFF []) ∧
    (ask (.c 0) (msg .applied 0 [1, 0x90, 5]) yard).Takes (.c 0) .applied (msg .applied 0 [1, 0x90, 5]) ∧
    (ask (.c 0) (msg .applied 0 [1, 0x90, 13]) yard).Takes (.c 0) .applied (msg .applied 0 [1, 0x90, 13]) ∧
    (yard.bay (bayAt 0 0)).inSession = true ∧ (yard.bay (bayAt 0 0)).seq.toNat = 5 ∧
    (yard.bay (bayAt 0 2)).inSession = false := by decide

theorem yard_roster : yard.RosterOk := rosterOk_of (by decide) (by decide)

theorem witness_OutletsFitAndUnfit :
    (ask (.c 0) (msg .outlets 0xFF [6, 0x05, 0xDD, 0, 0x01, 0x2C, 2, 0, 0]) yard).RosterOk ∧
    (∀ l, l ∈ [[], [8, 0, 0], [7, 0, 0, 7, 0, 1], ([6, 0x05, 0xDD, 0, 0x01, 0x2C, 2, 0, 0] : List Byte)] →
      (ask (.c 0) (msg .outlets 0xFF l) yard).Takes (.c 0) .outlets (msg .outlets 0xFF l) ∧ l.length ≤ 24 ∧
        l.length % 3 = 0) ∧
    (∀ b, cabinetOf b = 0 → (yard.bay b).reachable = true) ∧
    (∃ r ∈ outletRecords [8, 0, 0], 8 ≤ r.1.toNat) ∧ ¬ ((outletRecords [7, 0, 0, 7, 0, 1]).map (·.1)).Nodup ∧
    (let l := outletRecords [6, 0x05, 0xDD, 0, 0x01, 0x2C, 2, 0, 0]
     (∀ r ∈ l, r.1.toNat < 8) ∧ (l.map (·.1)).Nodup ∧ (∃ r ∈ l, 1500 < r.2) ∧ (yard.bay 6).occ = .unfitted ∧
       (yard.bay 0).inSession = true ∧ 300 < (yard.bay 0).published ∧ yard.namedSlot 7 = some 4) :=
  ⟨yard_roster, by decide, by decide, by decide, by decide, by decide⟩

theorem witness_PlugStartsASession :
    (∀ u, u ∈ [(0 : Byte), 2, 6] →
      (ask (.c 0) (msg .plug u [0x07, 0x40, 0xA2, 0x05, 0xDD]) yard).Takes (.c 0) .plug
        (msg .plug u [0x07, 0x40, 0xA2, 0x05, 0xDD])) ∧
    (yard.bay 6).occ = .unfitted ∧ (yard.bay 2).occ ≠ .unfitted ∧ (yard.bay 2).session = none ∧
      (yard.bay 0).session.isSome = true ∧
    -- found and free; found and barred; found and PLUGGED at bay 0; DEPARTED; unknown
    (yard.lookup 0x0740A2).isSome = true ∧ (yard.lookup 0x55AA12).map (·.2.barred) = some true ∧
      (yard.lookup 0x3A51C7).map (·.2.state) = some (.plugged 0 false) ∧ yard.lookup 0x000003 = none ∧
      yard.lookup 0x777777 = none := by decide

theorem witness_UnplugAndMeterEndTheSession :
    (∀ u, u ∈ [(0 : Byte), 2, 6] → (ask (.c 0) (msg .unplug u []) yard).Takes (.c 0) .unplug (msg .unplug u [])) ∧
    (∀ u, u ∈ [(0 : Byte), 2, 6] → (ask (.c 0) (msg .meter u [0, 0, 90, 0, 0, 0, 0, 0, 0, 0]) yard).Takes (.c 0) .meter
      (msg .meter u [0, 0, 90, 0, 0, 0, 0, 0, 0, 0])) ∧
    (yard.bay 0).inSession = true ∧ (yard.bay 2).occ = .vacant ∧ (yard.bay 6).occ = .unfitted := by decide

theorem witness_MeterUpdatesTheBay :
    let p : List Byte := [1, 0x04, 0xB0, 1, 0x90, 1, 0x2C, 1, 0x90, 5]
    let back := yard.setBay 0 { yard.bay 0 with resync := true }
    (ask (.c 0) (msg .meter 0 p) yard).Takes (.c 0) .meter (msg .meter 0 p) ∧
    (ask (.c 0) (msg .meter 0 p) back).Takes (.c 0) .meter (msg .meter 0 p) ∧
    (yard.bay (bayAt 0 0)).session.isSome = true ∧ (yard.bay (bayAt 0 0)).reachable = true ∧
    (yard.bay (bayAt 0 0)).resync = false ∧ (back.bay (bayAt 0 0)).resync = true ∧
    -- the target, 120.0 kWh, is reached; the published 40.0 kW is above the new Plim, 30.0 kW
    (yard.targetOf (.rostered 0)).any (fun target => target ≤ field16 0x04 0xB0) = true ∧
    field16 1 0x2C < (yard.bay 0).published := by decide

theorem witness_OutletFaultPublishesZero :
    (∀ u, u ∈ [(0 : Byte), 2, 3, 6] →
      (ask (.c 0) (msg .outletFault u [9]) yard).Takes (.c 0) .outletFault (msg .outletFault u [9])) ∧
    (∀ o : Fin 8, (yard.bay (bayAt 0 o)).reachable = true) ∧ (yard.bay 0).inSession = true ∧
      (yard.bay 2).occ = .vacant ∧ (yard.bay 3).session.map (·.phase) = some (.fault 7) ∧
      (yard.bay 6).occ = .unfitted := by decide

/-! #### Dispatch requests -/

/-- Every roster slot holds an entry, of the tag that is its number. -/
def full : State :=
  { fresh with
    roster := Vector.ofFn fun k => some (van (BitVec.ofNat 24 k.val) 900 400 0 .waiting)
    index := { slots := Vector.ofFn fun i => if h : i.val < 64 then some ⟨i.val, h⟩ else none, window := 0 } }

/-- The request ROSTER PUT for a tag with the given last two bytes. -/
def put (t2 t1 t0 k x : Byte) : Msg := msg .rosterPut 0xFF [t2, t1, t0, 0x01, 0xA4, 0x03, 0x84, k, x]

theorem witness_PutOfANewTag :
    (∀ j e, yard.entry j = some e → e.tag ≠ 0x1202C7) ∧ (∀ j e, yard.entry j = some e → e.tag ≠ 0x120255) ∧
    (∀ j e, full.entry j = some e → e.tag ≠ 0x000040) ∧
    (ask .d (put 0x12 0x02 0xC7 4 2) yard).Takes .d .rosterPut (put 0x12 0x02 0xC7 4 2) ∧
    (yard.indexAt (tagEntry yard.index.window 0x1202C7)).isSome = true ∧
    (ask .d (put 0 0 0x40 0 0) full).Takes .d .rosterPut (put 0 0 0x40 0 0) ∧
    full.indexAt (tagEntry full.index.window 0x000040) = none ∧ (∀ j, (full.entry j).isSome = true) ∧
    (ask .d (put 0x12 0x02 0x55 0 0) yard).Takes .d .rosterPut (put 0x12 0x02 0x55 0 0) ∧
    yard.indexAt (tagEntry yard.index.window 0x120255) = none ∧ yard.entry 5 = none ∧
    (∀ i, i < 5 → (yard.entry i).isSome = true) ∧ ∀ b, yard.relinks 0x120255 b = false :=
  ⟨no_tag (by decide), no_tag (by decide), no_tag (by decide), by decide⟩

/-- `yard` with a REFUSED bay of the tag PLUGGED at bay 0, and a COURTESY bay of a DEPARTED tag. -/
def crowded : State :=
  bay 9 (visit .barred .refused 0x3A51C7 220 0) 1100 0 0 0 (bay 10 (visit .active .courtesy 0x000003 220 0) 1100 0 0 0 yard)

theorem witness_PutOfARosteredTag :
    (∀ i f, yard.entry i = some f → f.tag = 0x3A51C7 → i = 0) ∧ (yard.entry 0).map (·.tag) = some 0x3A51C7 ∧
    (∀ b, yard.relinks 0x3A51C7 b = false) ∧
    (ask .d (put 0x3A 0x51 0xC7 0 0) yard).Takes .d .rosterPut (put 0x3A 0x51 0xC7 0 0) ∧
    (ask .d (put 0x3A 0x51 0xC7 0 1) yard).Takes .d .rosterPut (put 0x3A 0x51 0xC7 0 1) ∧
    (yard.entry 0).map (fun e => (e.barred, e.state)) = some (false, .plugged 0 false) ∧
    (yard.bay 0).session.isSome = true :=
  ⟨only_tag (by decide), by decide⟩

/-- The put's departure is 420; the bay beside the barred entry matches, and so does one of a DEPARTED entry. -/
theorem witness_PutOfARosteredTag_others :
    (∀ i f, crowded.entry i = some f → f.tag = 0x3A51C7 → i = 0) ∧
    (∀ i f, crowded.entry i = some f → f.tag = 0x000003 → i = 3) ∧
    (ask .d (put 0x3A 0x51 0xC7 0 1) (clock 419 0 crowded)).Takes .d .rosterPut (put 0x3A 0x51 0xC7 0 1) ∧
    (ask .d (put 0x3A 0x51 0xC7 0 1) (clock 420 0 crowded)).Takes .d .rosterPut (put 0x3A 0x51 0xC7 0 1) ∧
    (crowded.entry 0).map (·.state) = some (.plugged 0 false) ∧ crowded.relinks 0x3A51C7 9 = true ∧
      crowded.relinks 0x3A51C7 5 = false ∧ (crowded.bay 9).session.isSome = true ∧ (crowded.bay 0).session.isSome = true ∧
    (ask .d (put 0 0 0x03 0 0) crowded).Takes .d .rosterPut (put 0 0 0x03 0 0) ∧
      (crowded.entry 3).map (·.state) = some .departed ∧ crowded.relinks 0x000003 10 = true :=
  ⟨only_tag (by decide), only_tag (by decide), by decide⟩

theorem witness_PutRelinks :
    (∀ i f, yard.entry i = some f → f.tag = 0x55AA12 → i = 2) ∧
    (yard.entry 2).map (fun e => (e.tag, e.state)) = some (0x55AA12, .waiting) ∧
    (ask .d (put 0x55 0xAA 0x12 0 0) yard).Takes .d .rosterPut (put 0x55 0xAA 0x12 0 0) ∧
    (ask .d (put 0x55 0xAA 0x12 0 1) yard).Takes .d .rosterPut (put 0x55 0xAA 0x12 0 1) ∧
    yard.relinks 0x55AA12 4 = true ∧ (∀ a, a < 4 → yard.relinks 0x55AA12 a = false) ∧
    yard.relinks 0x55AA12 8 = true :=
  ⟨only_tag (by decide), by decide⟩

/-- The put of a new tag that bay 1 holds as COURTESY: slot 5 is the lowest free one. -/
theorem witness_PutRelinks_fresh :
    (∀ i f, yard.entry i = some f → f.tag ≠ 0x55AA10) ∧
    (ask .d (put 0x55 0xAA 0x10 0 0) yard).Takes .d .rosterPut (put 0x55 0xAA 0x10 0 0) ∧
    (ask .d (put 0x55 0xAA 0x10 0 1) yard).Takes .d .rosterPut (put 0x55 0xAA 0x10 0 1) ∧
    yard.indexAt (tagEntry yard.index.window 0x55AA10) = none ∧ yard.entry 5 = none ∧
    (∀ i, i < 5 → (yard.entry i).isSome = true) ∧ yard.relinks 0x55AA10 1 = true ∧ yard.relinks 0x55AA10 0 = false :=
  ⟨no_tag (by decide), by decide⟩

theorem witness_DropFreesTheSlot :
    (∀ j e, yard.entry j = some e → e.tag ≠ 0x777777) ∧ (∀ i f, yard.entry i = some f → f.tag = 0x3A51C7 → i = 0) ∧
    (∀ i f, yard.entry i = some f → f.tag = 0x0740A2 → i = 1) ∧
    (∀ t, t ∈ [[0x77, 0x77, 0x77], [0x3A, 0x51, 0xC7], ([0x07, 0x40, 0xA2] : List Byte)] →
      (ask .d (msg .rosterDrop 0xFF t) yard).Takes .d .rosterDrop (msg .rosterDrop 0xFF t)) ∧
    (yard.entry 0).map (fun e => (e.tag, e.isPlugged)) = some (0x3A51C7, true) ∧
    (yard.entry 1).map (fun e => (e.tag, e.isPlugged)) = some (0x0740A2, false) :=
  ⟨no_tag (by decide), only_tag (by decide), only_tag (by decide), by decide⟩

theorem witness_ClockSetSetsAndEvaluates :
    (ask .d (msg .clockSet 0xFF [0x10, 0x00, 60]) yard).Takes .d .clockSet (msg .clockSet 0xFF [0x10, 0x00, 60]) := by decide

theorem witness_SettingRequests :
    (ask .d (msg .vanPolicy 0xFF [2, 241]) yard).Takes .d .vanPolicy (msg .vanPolicy 0xFF [2, 241]) ∧
    (ask .s (msg .replyLimit 0xFF [61]) yard).Takes .s .replyLimit (msg .replyLimit 0xFF [61]) ∧
    (∀ s, s ∈ [yard, yardConfigure] →
      (ask .s (msg .allocationSetup 0xFF [1, 0xF5, 7]) s).Takes .s .allocationSetup (msg .allocationSetup 0xFF [1, 0xF5, 7])) ∧
    yard.mode ≠ .configure ∧ yardConfigure.mode = .configure ∧
    (ask .s (msg .rampLimit 0xFF [0, 0]) yard).Takes .s .rampLimit (msg .rampLimit 0xFF [0, 0]) ∧
    (ask .s (msg .pinWrite 0xFF [0x80]) yard).Takes .s .pinWrite (msg .pinWrite 0xFF [0x80]) := by decide

theorem witness_TagWindowBeginsARebuild :
    (∀ s, s ∈ [yard, yardConfigure] →
      (ask .d (msg .tagWindow 0xFF [17]) s).Takes .d .tagWindow (msg .tagWindow 0xFF [17])) ∧
    yard.mode ≠ .configure ∧ yardConfigure.mode = .configure := by decide

theorem witness_RebuildEndReplacesTheIndex :
    let s := { yardConfigure with rebuild := some { window := 0, clamped := false } }
    -- under window start 16 tags 0x000003 and 0x000004 fall together
    let t := { yardConfigure with rebuild := some { window := 16, clamped := true } }
    s.resetLow = false ∧ (s.port .d).health ≠ .detached ∧
    (∀ j i : Fin 8, (s.entry ⟨j.val, by omega⟩).all (fun e => (s.entry ⟨i.val, by omega⟩).all
      (fun f => tagEntry 0 e.tag != tagEntry 0 f.tag || i == j)) = true) ∧
    (∀ k : Fin 64, 8 ≤ k → s.entry k = none) ∧
    (t.entry 3).map (fun e => tagEntry 16 e.tag) = some 0 ∧ (t.entry 4).map (fun e => tagEntry 16 e.tag) = some 0 ∧
    ((errors .d 255 s).port .d).health = .detached ∧ (errors .d 255 s).rebuild.isSome = true := by
  decide

/-! #### Requests shared by both ports -/

theorem witness_ReadReturnsRecords :
    (let asks : Byte → Byte → Prop := fun item first =>
       (ask .d (msg .read first [item]) yard).Takes .d .read (msg .read first [item])
     asks 6 0 ∧ asks 1 32 ∧ asks 1 31 ∧ asks 5 5 ∧ asks 3 31) ∧
    itemTop 6 = none ∧ itemTop 1 = some 31 ∧ itemTop 5 = some 5 ∧ itemTop 3 = some 31 ∧
    (let s := ask .s (msg .read 0 [1]) { yard with settings := { yard.settings with limitS := 22 } }
     s.Takes .s .read (msg .read 0 [1]) ∧ (s.settings.limitS - 3) / itemSize 1 = 0) ∧
    (∀ b : Fin 32, b.val < (yard.records .d 0xFF 1).length) ∧ (∀ j : Fin 64, j.val < (yard.records .d 0xFF 2).length) := by
  decide

theorem witness_NoticeRequestsActOnOneSet :
    (ask .d (msg .noticeEnable 0xFF [0xFF, 0xFF]) yard).Takes .d .noticeEnable (msg .noticeEnable 0xFF [0xFF, 0xFF]) ∧
    (ask .s (msg .noticeEnable 0xFF [0xFF, 0xFF]) yard).Takes .s .noticeEnable (msg .noticeEnable 0xFF [0xFF, 0xFF]) ∧
    (ask .d (msg .noticeClear 0xFF [0xFF, 0xFF]) yard).Takes .d .noticeClear (msg .noticeClear 0xFF [0xFF, 0xFF]) ∧
    (ask .s (msg .noticeClear 0xFF [0xFF, 0xFF]) yard).Takes .s .noticeClear (msg .noticeClear 0xFF [0xFF, 0xFF]) := by decide

/-! #### Site requests -/

theorem witness_SiteLimitSetsTheLimit :
    (ask .s (msg .siteLimit 0xFF [0, 0]) yard).Takes .s .siteLimit (msg .siteLimit 0xFF [0, 0]) ∧
    (ask .s (msg .siteLimit 0xFF [0x0A, 0]) yard).Takes .s .siteLimit (msg .siteLimit 0xFF [0x0A, 0]) ∧
    0 < yard.total ∧ yard.total < 2560 - 700 := by decide

theorem witness_LoadReportSetsTheLoad :
    (ask .s (msg .loadReport 0xFF [0xFF, 0xFF]) yard).Takes .s .loadReport (msg .loadReport 0xFF [0xFF, 0xFF]) ∧
    (ask .s (msg .loadReport 0xFF [0, 0]) yard).Takes .s .loadReport (msg .loadReport 0xFF [0, 0]) ∧
    0 < yard.total ∧ yard.total < 2500 := by decide

theorem witness_ModeRequestChangesTheMode :
    (∀ b, b ∈ [(0 : Byte), 1, 2, 3] →
      (ask .s (msg .modeRequest 0xFF [b]) yard).Takes .s .modeRequest (msg .modeRequest 0xFF [b]) ∧
      (ask .s (msg .modeRequest 0xFF [b]) (run .roundTimerExpiry yard)).Takes .s .modeRequest
        (msg .modeRequest 0xFF [b])) ∧
    Mode.configure.code = 0 ∧ Mode.run.code = 1 ∧ Mode.hold.code = 2 ∧ yard.alloc.snap = none ∧
    (run .roundTimerExpiry yard).alloc.snap.isSome = true := by decide

theorem witness_RestartLosesAndKeeps :
    (ask .s (msg .restart 0xFF []) yard).Takes .s .restart (msg .restart 0xFF []) := by decide

theorem witness_ReleaseCabinetEndsItsSessions :
    (ask .s (msg .releaseCabinet 0 []) cut).RosterOk ∧
    (ask .s (msg .releaseCabinet 0 []) cut).Takes .s .releaseCabinet (msg .releaseCabinet 0 []) ∧
    (ask .s (msg .releaseCabinet 3 []) cut).Takes .s .releaseCabinet (msg .releaseCabinet 3 []) ∧
    (cut.port (.c 0)).health = .detached ∧ (cut.port (.c 3)).health ≠ .detached ∧ cut.straps.cabs.toNat = 3 ∧
    (ask .s (msg .releaseCabinet 1 []) (State.powerOn 0 1 0xFF)).Takes .s .releaseCabinet (msg .releaseCabinet 1 []) ∧
    (State.powerOn 0 1 0xFF).straps.cabs.toNat < 1 :=
  ⟨rosterOk_of (by decide) (by decide), by decide⟩

theorem witness_SlotAssignSetsTheSlot :
    (ask .s (msg .slotAssign 31 [3]) yard).Takes .s .slotAssign (msg .slotAssign 31 [3]) ∧
    (ask .s (msg .slotAssign 31 [3]) yardConfigure).Takes .s .slotAssign (msg .slotAssign 31 [3]) ∧
    (ask .s (msg .slotAssign 31 [4]) yardConfigure).Takes .s .slotAssign (msg .slotAssign 31 [4]) ∧
    yard.mode ≠ .configure ∧ yardConfigure.mode = .configure := by decide

theorem witness_PinSetupSetsThePins :
    (ask .s (msg .pinSetup 0xFF [0x01, 0xFF]) yard).Takes .s .pinSetup (msg .pinSetup 0xFF [0x01, 0xFF]) ∧
    (ask .s (msg .pinSetup 0xFF [0x00, 0xFF]) yard).Takes .s .pinSetup (msg .pinSetup 0xFF [0x00, 0xFF]) ∧
    yard.mode ≠ .configure ∧ (0x01 : Byte) ≠ yard.pins.fn ∧ (0x00 : Byte) = yard.pins.fn ∧
    (ask .s (msg .pinSetup 0xFF [0x03, 0xFF]) yardConfigure).Takes .s .pinSetup (msg .pinSetup 0xFF [0x03, 0xFF]) ∧
    yardConfigure.mode = .configure ∧ (ask .s (msg .pinSetup 0xFF [0x03, 0xFF]) yardConfigure).EnvelopeOk :=
  ⟨by decide, by decide, by decide, by decide, by decide, by decide, by decide,
    { pSite := by decide, other := by decide, ramp := by decide, rounds := by decide, stale := by decide, shed := by decide }⟩

/-! #### Clock, shed, rounds -/

theorem witness_SecondsAndMinutesPass :
    (yard.resetLow = false ∧ yard.dedicated 1 = false ∧ (clock 600 58 yard).clock.second < 59) ∧
    (clock 4095 59 yard).clock.second = 59 ∧
    (let s := { yard with clock := { yard.clock with overtaken := true } }
     s.resetLow = false ∧ s.dedicated 1 = false ∧ s.clock.second ≠ 59 ∧ s.clock.overtaken = true) ∧
    (pinned 0x02 true yard).resetLow = false ∧ (pinned 0x02 true yard).dedicated 1 = true := by decide

theorem witness_ShedHalvesSetpoints :
    (∀ s, s ∈ [yard, yardConfigure, cut] → (pinned 0x01 true s).resetLow = false ∧ (pinned 0x01 true s).dedicated 0 = true ∧
      (pinned 0x01 true s).pins.gp0 = true) ∧
    (yard.bay 0).reachable = true ∧ 0 < (yard.bay 0).published ∧ (cut.bay 0).reachable = false := by decide

theorem witness_ShedReleaseRestoresTheEnvelope :
    let s := pinned 0x01 false { yard with env := { yard.env with shed := true } }
    s.resetLow = false ∧ s.dedicated 0 = true ∧ s.pins.gp0 = false := by decide

theorem witness_TimerExpiryStartsARound :
    yard.resetLow = false ∧ yard.alloc.timer = some 32 ∧ yard.alloc.snap = none := by decide

theorem witness_PassCompletionHandsOver :
    let s := run .roundTimerExpiry yard
    s.resetLow = false ∧ s.alloc.snap.isSome = true ∧ s.mode ≠ .configure ∧ s.pendingMode = none ∧
      s.alloc.early = false ∧ ∀ b, s.pendingInc b = none := by decide

theorem witness_PassCompletionTakesWhatIsHeld :
    let s := run .roundTimerExpiry yard
    let t := { s with pendingMode := some .configure, alloc := { s.alloc with early := true } }
    (s.resetLow = false ∧ s.alloc.snap.isSome = true) ∧ t.resetLow = false ∧ t.alloc.snap.isSome = true := by decide

/-- `round` with bay 3 in slot 1 too: bays 3 and 1, in this order, share room and budget. -/
def shared : State := round.setBay 3 { round.bay 3 with slot := 1 }

theorem witness_SlotPublishesAnIncrease :
    yard.resetLow = false ∧ yard.mode ≠ .configure ∧ yard.alloc.snap = none ∧ (3, 24) ∈ yard.pub.slotTimes ∧
    (∀ b, (yard.bay b).slot = 3 → yard.pendingInc b = none) ∧
    (shared.resetLow = false ∧ shared.mode ≠ .configure ∧ shared.alloc.snap = none ∧ (1, 8) ∈ shared.pub.slotTimes ∧
      shared.alloc.order = [3, 1, 0, 2] ∧ (shared.bay 1).slot = 1 ∧ (shared.bay 3).slot = 1 ∧
      shared.pendingInc 1 = some 650 ∧ shared.pendingInc 3 = some 250) := by decide

/-! #### Alert lines and pins -/

theorem witness_AlertLinesAndPins :
    let s := pinned 0xFC true yard
    s.resetLow = false ∧ s.dedicated 0 = false ∧ s.dedicated 2 = true ∧ s.dedicated 3 = true ∧
      (∀ c : Fin 4, s.dedicated (4 + c.val) = true) ∧ yard.dset.code = 2 ∧ fresh.dset.code = 0 ∧
      (pinned 0x03 true yard).resetLow = false ∧ (pinned 0x03 true yard).dedicated 0 = true ∧
      (pinned 0x03 true yard).dedicated 1 = true := by decide

theorem witness_AlertLines_noticeSet : yard.dset.Ok ssetBits :=
  { pending := by decide, enable := by decide, held := by decide }

/-! #### What no command breaks -/

/-- With no port DETACHED and no rebuild, `LinksOk` is a check of six ports. -/
theorem links_of {s : State} (h : ∀ q ∈ allPorts, (s.port q).errors ≤ 255 ∧ (s.port q).health = healthOf (s.port q).errors ∧
      (s.port q).rejoin < 16 ∧ (s.port q).buffers.length ≤ 2 ∧ (s.port q).queue.length ≤ 8 ∧
      (s.port q).health ≠ .detached ∧ (s.port q).rejoin = 0) (hr : s.rebuild = none) : s.LinksOk where
  port p := by
    have hp : p ∈ allPorts := by
      cases p with
      | d => decide
      | s => decide
      | c n => revert n; decide
    obtain ⟨h1, h2, h3, h4, h5, h6, h7⟩ := h p hp
    exact { errors := h1, health := h2, rejoin := h3, buffers := h4, queue := h5, silent := fun x => absurd x h6
            attached := fun _ => h7 }
  room := by rw [hr]; simp

theorem yard_links : yard.LinksOk := links_of (by decide) (by decide)

theorem yard_reach : yard.ReachOk where
  reachable := by decide
  board := by decide
  cabinet := by decide

theorem yard_bays : yard.BaysOk where
  bay b := by
    have h : ∀ a, (yard.bay a).pcap ≤ maxPower ∧ (yard.bay a).published ≤ maxPower ∧ (yard.bay a).confirmed ≤ maxPower ∧
        (yard.bay a).unconfirmed ≤ 255 ∧ ((yard.bay a).occ = .unfitted → (yard.bay a).pcap = 0) ∧
        ((yard.bay a).session = none → (yard.bay a).published = 0 ∧ (yard.bay a).confirmed = 0 ∧ (yard.bay a).seq = 0 ∧
          (yard.bay a).unconfirmed = 0) := by decide
    have hs : ∀ a, (yard.bay a).session.all (fun y => decide (y.pveh ≤ maxPower ∧ y.power ≤ maxPower ∧
        y.delivered ≤ 65535 ∧ (y.phase = .active → y.disp.code = 1 ∨ y.disp.code = 2) ∧
        (y.phase = .satisfied → y.disp.code = 1) ∧
        (y.phase = .barred → y.disp = .refused ∨ y.disp = .duplicate) ∧
        (yard.bay a).published ≤ (yard.bay a).plim)) = true := by decide
    obtain ⟨h1, h2, h3, h4, h5, h6⟩ := h b
    refine { pcap := h1, published := h2, confirmed := h3, unconfirmed := h4, unfitted := h5, outside := h6
             session := fun y hy => ?_ }
    have := hs b
    rw [hy, Option.all_some, decide_eq_true_eq] at this
    obtain ⟨k1, k2, k3, k4, k5, k6, k7⟩ := this
    have one : y.disp.code = 1 → ∃ k, y.disp = .rostered k := by cases y.disp <;> simp [Disposition.code]
    have two : y.disp.code = 2 → y.disp = .courtesy := by cases y.disp <;> simp [Disposition.code]
    exact ⟨{ pveh := k1, power := k2, delivered := k3, active := fun x => (k4 x).imp one two
             satisfied := fun x => one (k5 x), barred := k6 }, k7⟩
  outside := by decide

theorem yard_passes : yard.PassOk where
  session sn h := absurd h (by rw [show yard.alloc.snap = none from by decide]; simp)
  fresh := by decide
  once := by decide
  listed := by decide

theorem yard_index : yard.IndexOk where
  held k e h := by
    simpa using entry_all (s := yard) (p := fun k e => yard.indexAt (tagEntry yard.index.window e.tag) == some k) (by decide)
      k e h
  only i k h := by
    have : ∀ i, (yard.indexAt i).all (fun k => (yard.entry k).any fun e => tagEntry yard.index.window e.tag == i) = true := by
      decide
    have := this i
    rw [h] at this
    simpa [Option.any_eq_true] using this
  window := by decide
  rebuild r h := by rw [show yard.rebuild = none from by decide] at h; cases h

theorem yard_entries : yard.EntriesOk := fun k e h => by
  have := entry_all (s := yard) (p := fun _ e => decide (e.departure ≤ lastMinute ∧ e.target ≤ maxTarget ∧ e.cls ≤ 3))
    (by decide) k e h
  obtain ⟨h1, h2, h3⟩ := of_decide_eq_true this
  exact { departure := h1, target := h2, cls := h3 }

theorem yard_clock : yard.ClockOk where
  minute := by decide
  second := by decide
  fraction := by decide
  pulse := by decide

theorem yard_envelope : yard.EnvelopeOk where
  pSite := by decide
  other := by decide
  ramp := by decide
  rounds := by decide
  stale := by decide
  shed := by decide

theorem yard_settings : yard.SettingsOk where
  round := by decide
  pmin := by decide
  inForce := by decide
  guard := by decide
  limitD := by decide
  limitS := by decide

theorem yard_mode : yard.ModeOk where
  configure := by decide
  increase := by decide
  idle := by decide
  running := by decide
  governs := by decide

theorem yard_notices : yard.NoticesOk where
  dset := { pending := by decide, enable := by decide, held := by decide }
  sset := { pending := by decide, enable := by decide, held := by decide }
  condD := by decide
  condS := by decide

/-- `yard` with one command waiting, which a step takes. -/
def yardStep : State := { yard with pending := [.slot 1] }

theorem witness_step : ∃ t, step yardStep = .next t := ⟨_, rfl⟩

theorem witness_KeepsLinks : yardStep.LinksOk ∧ yardStep.ReachOk :=
  ⟨⟨yard_links.port, yard_links.room⟩, ⟨yard_reach.reachable, yard_reach.board, yard_reach.cabinet⟩⟩

theorem witness_KeepsBays : yardStep.BaysOk ∧ yardStep.PassOk :=
  ⟨⟨yard_bays.bay, yard_bays.outside⟩, ⟨yard_passes.session, yard_passes.fresh, yard_passes.once, yard_passes.listed⟩⟩

theorem witness_KeepsTheRoster : yardStep.RosterOk ∧ yardStep.IndexOk ∧ yardStep.EntriesOk :=
  ⟨yard_roster, ⟨yard_index.held, yard_index.only, yard_index.window, yard_index.rebuild⟩, yard_entries⟩

theorem witness_KeepsClockEnvelopeAndSettings : yardStep.ClockOk ∧ yardStep.EnvelopeOk ∧ yardStep.SettingsOk :=
  ⟨⟨yard_clock.minute, yard_clock.second, yard_clock.fraction, yard_clock.pulse⟩,
   ⟨yard_envelope.pSite, yard_envelope.other, yard_envelope.ramp, yard_envelope.rounds, yard_envelope.stale,
     yard_envelope.shed⟩,
   ⟨yard_settings.round, yard_settings.pmin, yard_settings.inForce, yard_settings.guard, yard_settings.limitD, yard_settings.limitS⟩⟩

theorem witness_KeepsTheMode : yardStep.ModeOk :=
  ⟨yard_mode.configure, yard_mode.increase, yard_mode.idle, yard_mode.running, yard_mode.governs⟩

theorem witness_KeepsTheNotices : yardStep.NoticesOk :=
  ⟨yard_notices.dset, yard_notices.sset, yard_notices.condD, yard_notices.condS⟩

/-- A command other than METER answers a next state: SLOT 1 of the worked round publishes an increase. So does a METER of
bay 0 of `yard`, whose resync flag is clear. -/
theorem witness_TotalStaysUnderTheEnvelope :
    (∀ n, Instr.slot 1 ≠ .meter (.c n)) ∧ (∃ t, exec (.slot 1) round = .next t) ∧ round.LinksOk ∧
      round.total < (run (.slot 1) round).total ∧
    (let m := msg .meter 0 [1, 0, 0, 0, 0, 1, 0x2C, 1, 0x90, 5]
     (ask (.c 0) m yard).LinksOk ∧ (ask (.c 0) m yard).Takes (.c 0) .meter m ∧ ((ask (.c 0) m yard).bay (bayOfUnit 0 m.unit)).resync = false ∧
       bayOfUnit 0 m.unit = 0) :=
  ⟨nofun, ⟨_, rfl⟩, links_of (by decide) (by decide), by decide, links_of (by decide) (by decide), by decide⟩

/-- The reference pass has eligible bays, and `cut` frozen ones. -/
theorem witness_GrantsAndServiceOrder :
    ((run .roundTimerExpiry reference).alloc.snap.map fun sn => (sn.eligible 0, sn.eligible 5)) = some (true, false) ∧
    ((run .roundTimerExpiry cut).alloc.snap.map fun sn => sn.frozen 0) = some true := by decide

end Sys2Proof.Tests
end

section
/-!
SUPPORT. Handler commands: a body that acts, refuses or stays silent; what every handled item leaves alone; and the blocks that
the invariants of bays, passes and roster read.
-/
namespace Sys2Proof.Machine

/-! ### The handler's three endings (R106) -/

/-- A message of kind `k` passes checks 3 to 5 of R106 on port `p`. -/
structure Kind.Passes (k : Kind) (p : Port) (m : Msg) : Prop where
  port : k.accepts p = true
  length : k.lengthOk m.payload.length = true
  unit : k.unitOk m.unit = true

theorem State.Takes.attached {s : State} {p : Port} {k : Kind} {m : Msg} (h : s.Takes p k m) :
    ((s.take p).port p).health ≠ .detached := by rw [State.take_health]; exact h.1.2.2.2

/-- A request acted on: its effects, then its answer. -/
theorem State.handle_done {s u : State} {p : Port} {k : Kind} {m : Msg} {c : Bool} {body : Msg → State → State × Option Msg}
    (h : s.Takes p k m) (hp : k.Passes p m) (hb : body m (s.take p) = done m u c) (hu : (u.port p).health ≠ .detached) :
    s.handle k p body = u.sends p (m.answer (okResult c)) := by
  rw [State.handle_pass body h hp.port hp.length hp.unit, hb]
  exact State.reply_eq_sends _ hu

/-- A request refused by the rule of its kind: the answer alone. -/
theorem State.handle_refuse {s : State} {p : Port} {k : Kind} {m : Msg} {f : Flag} {body : Msg → State → State × Option Msg}
    (h : s.Takes p k m) (hp : k.Passes p m) (hb : body m (s.take p) = refuse m (s.take p) f) :
    s.handle k p body = (s.take p).sends p (m.answer f.result) := by
  rw [State.handle_pass body h hp.port hp.length hp.unit, hb]
  exact State.reply_eq_sends _ h.attached

/-- A report, or a request answered later: its effects alone. -/
theorem State.handle_silent {s u : State} {p : Port} {k : Kind} {m : Msg} {body : Msg → State → State × Option Msg}
    (h : s.Takes p k m) (hp : k.Passes p m) (hb : body m (s.take p) = (u, none)) : s.handle k p body = u := by
  rw [State.handle_pass body h hp.port hp.length hp.unit, hb]; rfl

theorem done_fst (m : Msg) (u : State) (c : Bool) : (done m u c).1 = u := rfl

theorem bayOfUnit_ofNat (c : Fin 4) (o : Fin 8) : bayOfUnit c (BitVec.ofNat 8 o.val) = bayAt c o := by
  revert c o; decide

theorem State.take_bay (s : State) (p : Port) (b : Fin 32) : (s.take p).bay b = s.bay b :=
  (s.take_frame p).bay (by simp) b

theorem State.take_entry (s : State) (p : Port) (k : Fin 64) : (s.take p).entry k = s.entry k :=
  (s.take_frame p).entry (by simp) k

/-! ### What every handled item leaves alone -/

theorem State.reply_frame (s : State) (p : Port) (m : Msg) : SameBut [.ports] s (s.reply p m) := by
  unfold State.reply
  split
  · exact SameBut.refl _ s
  · exact (s.setPort_frame p _).trans (State.kick_frame _ p)

theorem State.replyWith_frame (s : State) (p : Port) (r : Option Msg) : SameBut [.ports] s (s.replyWith p r) := by
  cases r with
  | none => exact SameBut.refl _ s
  | some m => exact s.reply_frame p m

/-- A property that no write to a port touches, and that the rule of the kind keeps, is kept by the handling of an item. -/
theorem State.handle_keeps {P : State → Prop} (hP : ∀ {u v : State}, SameBut [.ports] u v → P u → P v) {s : State} {k : Kind}
    {p : Port} {body : Msg → State → State × Option Msg}
    (hb : ∀ m, s.offered p = some (.message m) → P (s.take p) → P (body m (s.take p)).1) (h : P s) :
    P (s.handle k p body) := by
  have ht : P (s.take p) := hP (s.take_frame p) h
  unfold State.handle
  split
  · rename_i m hm
    split
    · split
      · exact hP (State.replyWith_frame _ p _) (hb m hm ht)
      · exact hP (State.reply_frame _ p _) ht
      · exact ht
    · exact h
  · exact h

/-! ### The blocks that bays, passes and roster are read from -/

/-- The blocks that `BaysOk`, `PassOk`, `RosterOk`, `IndexOk` and `EntriesOk` read. -/
def bookBlocks : List Block := [.bays, .roster, .index, .rebuild, .pass, .marks, .order, .increases, .board]

/-- Those blocks are in `t` as they are in `s`. -/
def SameBooks (s t : State) : Prop := ∀ k ∈ bookBlocks, k.same s t

theorem SameBooks.refl (s : State) : SameBooks s s := fun k _ => k.same_refl s

theorem SameBooks.trans {s t u : State} (h : SameBooks s t) (h' : SameBooks t u) : SameBooks s u :=
  fun k hk => Block.same_trans (h k hk) (h' k hk)

theorem SameBut.books {l : List Block} {s t : State} (h : SameBut l s t) (hl : ∀ k ∈ bookBlocks, k ∉ l := by decide) :
    SameBooks s t := fun k hk => h k (hl k hk)

namespace SameBooks

variable {s t : State} (h : SameBooks s t)
include h

theorem bay (b : Fin 32) : t.bay b = s.bay b := by
  simp only [State.bay]; rw [show t.bays = s.bays from h .bays (by decide)]

theorem entry (k : Fin 64) : t.entry k = s.entry k := by
  simp only [State.entry]; rw [show t.roster = s.roster from h .roster (by decide)]

theorem index : t.index = s.index := h .index (by decide)

theorem rebuild : t.rebuild = s.rebuild := h .rebuild (by decide)

theorem snap : t.alloc.snap = s.alloc.snap := h .pass (by decide)

theorem marked (b : Fin 32) : t.marked b = s.marked b := by
  simp only [State.marked]; rw [show t.alloc.marks = s.alloc.marks from h .marks (by decide)]

theorem order : t.alloc.order = s.alloc.order := h .order (by decide)

theorem pendingInc (b : Fin 32) : t.pendingInc b = s.pendingInc b := by
  simp only [State.pendingInc]; rw [show t.pub.pending = s.pub.pending from h .increases (by decide)]

theorem board (b : Fin 32) : t.board b = s.board b := by
  simp only [State.board]; rw [show t.pub.board = s.pub.board from h .board (by decide)]

end SameBooks

/-! ### Operations that reach none of those blocks -/

theorem SameBooks.of {s t : State} (hb : t.bays = s.bays) (hr : t.roster = s.roster) (hi : t.index = s.index)
    (hw : t.rebuild = s.rebuild) (hp : t.alloc.snap = s.alloc.snap) (hm : t.alloc.marks = s.alloc.marks)
    (ho : t.alloc.order = s.alloc.order) (hn : t.pub.pending = s.pub.pending) (hd : t.pub.board = s.pub.board) :
    SameBooks s t := by
  intro k hk
  simp only [bookBlocks, List.mem_cons, List.not_mem_nil, or_false] at hk
  rcases hk with rfl | rfl | rfl | rfl | rfl | rfl | rfl | rfl | rfl
  exacts [hb, hr, hi, hw, hp, hm, ho, hn, hd]

theorem State.onSet_books (s : State) (p : Port) (f : NoticeSet → Mask → NoticeSet) : SameBooks s (s.onSet p f) := by
  unfold State.onSet
  split <;> exact .of rfl rfl rfl rfl rfl rfl rfl rfl rfl

theorem State.setLimit_books (s : State) (p : Port) (n : Nat) : SameBooks s (s.setLimit p n) := by
  unfold State.setLimit
  split <;> exact .of rfl rfl rfl rfl rfl rfl rfl rfl rfl

theorem State.overrun_books (s : State) (p : Port) : SameBooks s (s.overrun p) := by
  unfold State.overrun
  split
  · exact (s.raiseD_frame _).books
  · exact (s.raiseS_frame _).books

theorem State.handOn_books (s : State) (p : Port) (x : Item) : SameBooks s (s.handOn p x) := by
  unfold State.handOn
  simp only
  split
  · exact .refl s
  · split
    · exact (s.setPort_frame p _).books
    · exact s.overrun_books p

theorem State.sendReply_books (s : State) (p : Port) : SameBooks s (s.sendReply p) := by
  unfold State.sendReply
  simp only
  split <;> exact (s.setPort_frame p _).books

theorem roundEndBody_books (c : Fin 4) (m : Msg) (s : State) : SameBooks s (roundEndBody c m s).1 :=
  (s.setCabinet_frame c _).books

theorem vanPolicyBody_books (m : Msg) (s : State) : SameBooks s (vanPolicyBody m s).1 := by
  unfold vanPolicyBody
  split <;> exact .of rfl rfl rfl rfl rfl rfl rfl rfl rfl

theorem readBody_books (p : Port) (pins : PinReading) (m : Msg) (s : State) : SameBooks s (readBody p pins m s).1 := by
  unfold readBody
  split
  · exact (s.recognise_frame pins.rise).books
  · exact .refl s

theorem replyLimitBody_books (p : Port) (m : Msg) (s : State) : SameBooks s (replyLimitBody p m s).1 := by
  unfold replyLimitBody
  split
  · exact s.setLimit_books p _
  · exact .refl s

theorem noticeEnableBody_books (p : Port) (m : Msg) (s : State) : SameBooks s (noticeEnableBody p m s).1 := by
  unfold noticeEnableBody
  split
  · simp only [done]
    exact s.onSet_books p _
  · exact .refl s

theorem noticeClearBody_books (p : Port) (m : Msg) (s : State) : SameBooks s (noticeClearBody p m s).1 := by
  unfold noticeClearBody
  split
  · simp only [done]
    exact s.onSet_books p _
  · exact .refl s

theorem rampLimitBody_books (m : Msg) (s : State) : SameBooks s (rampLimitBody m s).1 := by
  unfold rampLimitBody
  split <;> exact .of rfl rfl rfl rfl rfl rfl rfl rfl rfl

theorem allocationSetupBody_books (m : Msg) (s : State) : SameBooks s (allocationSetupBody m s).1 := by
  unfold allocationSetupBody
  split
  · split <;> exact .of rfl rfl rfl rfl rfl rfl rfl rfl rfl
  · exact .refl s

theorem pinWriteBody_books (m : Msg) (s : State) : SameBooks s (pinWriteBody m s).1 := by
  unfold pinWriteBody
  split <;> exact .of rfl rfl rfl rfl rfl rfl rfl rfl rfl

/-- An item that is not handed to the rule of a kind, or handed to a rule that reaches none of those blocks, leaves them. -/
theorem State.handle_books {s : State} {k : Kind} {p : Port} {body : Msg → State → State × Option Msg}
    (hb : ∀ m u, SameBooks u (body m u).1) : SameBooks s (s.handle k p body) :=
  State.handle_keeps (P := SameBooks s) (fun f h => h.trans f.books) (fun m _ h => h.trans (hb m _)) (.refl s)

theorem onCabinet_keeps {R : State → State → Prop} (hR : ∀ u, R u u) {p : Port} {f : Fin 4 → Msg → State → State × Option Msg}
    (h : ∀ n m u, R u (f n m u).1) (m : Msg) (u : State) : R u (onCabinet p f m u).1 := by
  cases p with
  | c n => exact h n m u
  | d | s => exact hR u

theorem execPayloadCheck_books (p : Port) (s : State) : ∃ t, execPayloadCheck p s = .next t ∧ SameBooks s t := by
  refine ⟨_, rfl, ?_⟩
  split
  · exact (s.take_frame p).books.trans (State.reply_frame _ p _).books
  · exact .refl s

theorem execUnknownKind_books (p : Port) (s : State) : ∃ t, execUnknownKind p s = .next t ∧ SameBooks s t := by
  refine ⟨_, rfl, ?_⟩
  split
  · split
    · exact (s.take_frame p).books.trans (State.reply_frame _ p _).books
    · exact .refl s
  · exact .refl s

theorem execMessageSent_books (p : Port) (s : State) : ∃ t, execMessageSent p s = .next t ∧ SameBooks s t := by
  refine ⟨_, rfl, ?_⟩
  split
  · exact (s.setPort_frame p _).books.trans (State.kick_frame _ p).books
  · exact .refl s

/-- The commands that reach none of those blocks. -/
def offBooks : Instr → Bool
  | .payloadCheck _ | .unknownKind _ | .messageSent _ | .keepalive _ | .roundEnd _ | .vanPolicy _ | .read _ _
  | .replyLimit _ | .noticeEnable _ | .noticeClear _ | .rampLimit _ | .allocationSetup _ | .pinWrite _ => true
  | _ => false

theorem exec_books {c : Instr} {s t : State} (hc : offBooks c = true) (h : exec c s = .next t) : SameBooks s t := by
  have inj : ∀ {u : State}, Host.Outcome.next (φ := Fault) (ρ := Refusal) u = .next t → SameBooks s u → SameBooks s t := by
    rintro u ⟨⟩ hu; exact hu
  cases c <;> simp only [offBooks, Bool.false_eq_true] at hc
  case payloadCheck p => obtain ⟨u, e, hu⟩ := execPayloadCheck_books p s; exact inj (e.symm.trans h) hu
  case unknownKind p => obtain ⟨u, e, hu⟩ := execUnknownKind_books p s; exact inj (e.symm.trans h) hu
  case messageSent p => obtain ⟨u, e, hu⟩ := execMessageSent_books p s; exact inj (e.symm.trans h) hu
  case keepalive p => exact inj h (State.handle_books fun _ u => .refl u)
  case roundEnd p => exact inj h (State.handle_books (onCabinet_keeps SameBooks.refl roundEndBody_books))
  case vanPolicy p => exact inj h (State.handle_books vanPolicyBody_books)
  case read p pins => exact inj h (State.handle_books (readBody_books p pins))
  case replyLimit p => exact inj h (State.handle_books (replyLimitBody_books p))
  case noticeEnable p => exact inj h (State.handle_books (noticeEnableBody_books p))
  case noticeClear p => exact inj h (State.handle_books (noticeClearBody_books p))
  case rampLimit p => exact inj h (State.handle_books rampLimitBody_books)
  case allocationSetup p => exact inj h (State.handle_books allocationSetupBody_books)
  case pinWrite p => exact inj h (State.handle_books pinWriteBody_books)

end Sys2Proof.Machine
end

section
/-!
SUPPORT. What every operation does to the roster, the Tag Index and the names by which bays and entries point at each other
(R5, R6, R7).
-/
namespace Sys2Proof.Machine

/-! ### The relation every command stands in -/

/-- Where Bay Table and roster agree they still do (R6), and where index and roster's fields are right they still are (R5,
R7). -/
structure KeepsBooks (s t : State) : Prop where
  roster : s.RosterOk → t.RosterOk
  index : s.IndexOk → s.EntriesOk → t.IndexOk ∧ t.EntriesOk

theorem KeepsBooks.refl (s : State) : KeepsBooks s s := ⟨id, fun h h' => ⟨h, h'⟩⟩

theorem KeepsBooks.trans {s t u : State} (h : KeepsBooks s t) (h' : KeepsBooks t u) : KeepsBooks s u :=
  ⟨fun hr => h'.roster (h.roster hr), fun hi he => h'.index (h.index hi he).1 (h.index hi he).2⟩

theorem KeepsBooks.foldl {α : Type} {f : State → α → State} (hf : ∀ u a, KeepsBooks u (f u a)) :
    ∀ (l : List α) (s : State), KeepsBooks s (l.foldl f s)
  | [], s => .refl s
  | a :: l, s => (hf s a).trans (KeepsBooks.foldl hf l (f s a))

/-- The fields of an entry that a ROSTER PUT alone sets (R12), and that R5 bounds. -/
def Entry.fixed (e : Entry) : Tag × Nat × Nat × Nat := (e.tag, e.departure, e.target, e.cls)

theorem Entry.fixed_eq {e f : Entry} :
    f.fixed = e.fixed ↔ f.tag = e.tag ∧ f.departure = e.departure ∧ f.target = e.target ∧ f.cls = e.cls := by
  simp [Entry.fixed]

theorem Entry.Ok.of_fixed {e f : Entry} (h : f.fixed = e.fixed) (he : e.Ok) : f.Ok := by
  obtain ⟨-, hd, ht, hc⟩ := Entry.fixed_eq.mp h
  exact ⟨hd ▸ he.departure, ht ▸ he.target, hc ▸ he.cls⟩

/-- Index and entries that keep their tags and bounded fields keep R5 and R7. -/
theorem index_of_fixed {s t : State} (he : ∀ k, (t.entry k).map Entry.fixed = (s.entry k).map Entry.fixed)
    (hi : t.index = s.index) (hw : ∀ r, t.rebuild = some r → r.window ≤ maxWindow ∨ s.rebuild = some r)
    (hI : s.IndexOk) (hE : s.EntriesOk) : t.IndexOk ∧ t.EntriesOk := by
  have at_eq : ∀ i, t.indexAt i = s.indexAt i := fun i => by simp only [State.indexAt, hi]
  have back : ∀ k f, t.entry k = some f → ∃ e, s.entry k = some e ∧ f.fixed = e.fixed := fun k f hf => by
    have := he k; rw [hf] at this
    simpa [eq_comm] using this
  have forth : ∀ k e, s.entry k = some e → ∃ f, t.entry k = some f ∧ f.fixed = e.fixed := fun k e hk => by
    have := he k; rw [hk] at this
    simpa using this
  refine ⟨⟨fun k f hf => ?_, fun i k hk => ?_, hi ▸ hI.window, fun r hr => ?_⟩, fun k f hf => ?_⟩
  · obtain ⟨e, hk, hx⟩ := back k f hf
    rw [at_eq, hi, (Entry.fixed_eq.mp hx).1]
    exact hI.held k e hk
  · obtain ⟨e, hk', ht⟩ := hI.only i k (by rw [← at_eq]; exact hk)
    obtain ⟨f, hf, hx⟩ := forth k e hk'
    exact ⟨f, hf, by rw [hi, (Entry.fixed_eq.mp hx).1]; exact ht⟩
  · exact (hw r hr).elim id (hI.rebuild r)
  · obtain ⟨e, hk, hx⟩ := back k f hf
    exact (hE k e hk).of_fixed hx

/-! ### Operations that leave every name in place -/

/-- The disposition of a bay in session. -/
def Bay.disp (x : Bay) : Option Disposition := x.session.map (·.disp)

theorem namedSlot_congr {s t : State} {b : Fin 32} (h : (t.bay b).disp = (s.bay b).disp) : t.namedSlot b = s.namedSlot b := by
  have eq : ∀ u : State, u.namedSlot b = (u.bay b).disp.bind fun d => match d with | .rostered k => some k | _ => none := by
    intro u
    unfold State.namedSlot Bay.disp
    cases (u.bay b).session <;> rfl
  rw [eq, eq, h]

theorem namedBay_congr {s t : State} {k : Fin 64} (h : t.entry k = s.entry k) : t.namedBay k = s.namedBay k := by
  simp only [State.namedBay, h]

/-- What leaves the dispositions of the bays, the roster and the index leaves all of it. -/
theorem KeepsBooks.of_disp {s t : State} (hd : ∀ b, (t.bay b).disp = (s.bay b).disp) (he : ∀ k, t.entry k = s.entry k)
    (hi : t.index = s.index) (hw : ∀ r, t.rebuild = some r → r.window ≤ maxWindow ∨ s.rebuild = some r) : KeepsBooks s t where
  roster h b k := by rw [namedSlot_congr (hd b), namedBay_congr (he k)]; exact h b k
  index := index_of_fixed (fun k => by rw [he]) hi hw

/-- The same of a frame that holds the bays at most. -/
theorem KeepsBooks.of_frame {l : List Block} {s t : State} (f : SameBut l s t) (hd : ∀ b, (t.bay b).disp = (s.bay b).disp)
    (hr : .roster ∉ l := by decide) (hi : .index ∉ l := by decide) (hw : .rebuild ∉ l := by decide) : KeepsBooks s t :=
  .of_disp hd (f.entry hr) (f .index hi) fun r h => .inr (by rwa [← show t.rebuild = s.rebuild from f .rebuild hw])

/-- What leaves bays, roster, index and rebuild as they are. -/
theorem KeepsBooks.of_eq {s t : State} (hb : t.bays = s.bays) (hr : t.roster = s.roster) (hi : t.index = s.index)
    (hw : t.rebuild = s.rebuild) : KeepsBooks s t :=
  .of_disp (fun b => by simp only [State.bay, hb]) (fun k => by simp only [State.entry, hr]) hi fun r h => .inr (hw ▸ h)

theorem SameBooks.keeps {s t : State} (h : SameBooks s t) : KeepsBooks s t :=
  .of_disp (fun b => by rw [h.bay]) h.entry h.index fun r hr => .inr (by rwa [← h.rebuild])

theorem setBay_disp {s : State} {b : Fin 32} {x : Bay} (h : x.disp = (s.bay b).disp) (a : Fin 32) :
    ((s.setBay b x).bay a).disp = (s.bay a).disp := by
  rw [State.bay_setBay]
  split
  · rename_i e; rw [h, e]
  · rfl

/-- A bay record written with its disposition kept. -/
theorem State.setBay_keepsBooks {s : State} {b : Fin 32} {x : Bay} (h : x.disp = (s.bay b).disp) : KeepsBooks s (s.setBay b x) :=
  .of_frame (s.setBay_frame b x) (setBay_disp h)

theorem Publishes.keepsBooks {s t : State} {b : Fin 32} {v : Nat} (h : Publishes s t b v) : KeepsBooks s t :=
  .of_frame h.frame fun a => by
    by_cases e : a = b
    · rw [e, h.bay]; rfl
    · rw [h.bays a e]

theorem State.publish_keepsBooks (s : State) (b : Fin 32) (v : Nat) : KeepsBooks s (s.publish b v) := by
  by_cases h : (s.bay b).reachable = true
  · exact (State.publish_spec v h).keepsBooks
  · rw [State.publish_unreachable v (by simpa using h)]; exact .refl s

theorem State.limitVehicle_keepsBooks (s : State) (b : Fin 32) : KeepsBooks s (s.limitVehicle b) := by
  simp only [State.limitVehicle]
  split
  · exact s.publish_keepsBooks b _
  · exact .refl s

theorem State.confirm_keepsBooks (s : State) (b : Fin 32) (q : Byte) : KeepsBooks s (s.confirm b q) := by
  by_cases h : (s.bay b).inSession = true ∧ q.toNat = (s.bay b).seq.toNat
  · have c := State.confirm_spec h.1 h.2
    refine .of_frame c.frame fun a => ?_
    by_cases e : a = b
    · rw [e, c.bay]; rfl
    · rw [c.bays a e]
  · rw [State.confirm_ignored h]; exact .refl s

theorem State.resync_keepsBooks (s : State) (b : Fin 32) (v : Nat) (q : Byte) : KeepsBooks s (s.resync b v q) := by
  have d := s.adopt_spec b v q
  have adopts : KeepsBooks s (s.adopt b v q) := .of_frame d.frame fun a => by
    by_cases e : a = b
    · rw [e, d.bay]; rfl
    · rw [d.bays a e]
  have restores : ∀ (u : State) (n : Nat), KeepsBooks u (u.restore b n) := fun u n => by
    unfold State.restore
    split
    · exact u.publish_keepsBooks b n
    · exact .refl u
  exact (adopts.trans (State.limitVehicle_keepsBooks _ b)).trans (restores _ _)

theorem State.satisfy_keepsBooks (s : State) (b : Fin 32) : KeepsBooks s (s.satisfy b) := by
  cases h : (s.bay b).session with
  | none => simp only [State.satisfy, h]; exact .refl s
  | some x =>
    obtain ⟨hb, ho, -, -, hf⟩ := State.satisfy_spec h
    refine .of_frame hf fun a => ?_
    by_cases e : a = b
    · rw [e, hb]; simp only [Bay.disp, h]; rfl
    · rw [ho a e]

theorem RoundStarts.keepsBooks {s t : State} (h : RoundStarts s t) : KeepsBooks s t :=
  .of_frame h.frame fun b => by
    rw [h.bays]
    unfold Bay.disp Bay.session
    cases (s.bay b).occ <;> rfl

theorem EarlyRound.keepsBooks {s t : State} (h : EarlyRound s t) : KeepsBooks s t := by
  unfold EarlyRound at h
  split at h
  · subst h; exact .refl _
  · split at h
    · rw [h]; exact .of_eq rfl rfl rfl rfl
    · exact h.keepsBooks

theorem State.requestIfExceeded_keepsBooks (s : State) : KeepsBooks s s.requestIfExceeded := by
  unfold State.requestIfExceeded
  split
  · exact s.requestEarly_spec.keepsBooks
  · exact .refl s

theorem Walks.keepsBooks {s t : State} {l : List (Fin 32)} {want : Fin 32 → Option Nat} (h : Walks s t l want) :
    KeepsBooks s t :=
  .of_frame h.frame fun b => by
    rw [h.bay]
    split
    · cases want b <;> rfl
    · rfl

theorem SlotWalk.keepsBooks {s t : State} {k : Fin 4} {l : List (Fin 32)} (h : SlotWalk s t k l) : KeepsBooks s t :=
  .of_frame h.frame fun b => by rw [h.bays]; rfl

theorem Detaches.keepsBooks {s t : State} {p : Port} {rx : Receiver} (h : Detaches s t p rx) : KeepsBooks s t :=
  .of_frame h.frame fun b => by rw [h.bays]; split <;> rfl

theorem Rejoins.keepsBooks {s t : State} {p : Port} {rx : Receiver} (h : Rejoins s t p rx) : KeepsBooks s t :=
  .of_frame h.frame fun b => by rw [h.bays]; split <;> rfl

theorem EntersConfigure.keepsBooks {s t : State} (h : EntersConfigure s t) : KeepsBooks s t :=
  .of_frame h.frame fun b => by rw [h.bays]; rfl

theorem SilenceStarts.keepsBooks {s t : State} (h : SilenceStarts s t) : KeepsBooks s t := (h.frame.books).keeps

theorem ModeTakesEffect.keepsBooks {s t : State} {m : Mode} (h : ModeTakesEffect s t m) : KeepsBooks s t := by
  unfold ModeTakesEffect at h
  split at h
  · rw [h]; exact .of_eq rfl rfl rfl rfl
  · split at h
    · exact h.keepsBooks
    · split at h
      · obtain ⟨u, hu, hr⟩ := h
        refine hu.keepsBooks.trans (KeepsBooks.trans ?_ hr.keepsBooks)
        exact .of_eq rfl rfl rfl rfl
      · obtain ⟨u, hu, ht⟩ := h
        rw [ht]
        refine hu.keepsBooks.trans (.of_eq ?_ ?_ ?_ ?_) <;> simp only <;> split <;> rfl

/-! ### Passes and slots -/

theorem State.evaluateAt_keepsBooks (k : Fin 4) (s : State) (b : Fin 32) : KeepsBooks s (State.evaluateAt k s b) := by
  unfold State.evaluateAt
  split
  · exact .refl s
  · rename_i target _
    split
    · have drops : ∀ u : State, KeepsBooks u (u.setPendingInc b none) := fun u =>
        .of_frame (u.setPendingInc_frame b none) fun _ => rfl
      rcases s.increase_cases b target with e | ⟨u, v, n, hu, e⟩
      · rw [e]; exact drops s
      · rw [e]
        have spends : KeepsBooks u { u with pub := { u.pub with used := n } } := .of_eq rfl rfl rfl rfl
        exact (hu.keepsBooks.trans spends).trans (drops _)
    · exact .refl s

theorem State.takeSlot_keepsBooks (s : State) (k : Fin 4) : KeepsBooks s (s.takeSlot k) := by
  have opens : KeepsBooks s { s with pub := { s.pub with used := 0 } } := .of_eq rfl rfl rfl rfl
  exact opens.trans (.foldl (State.evaluateAt_keepsBooks k) _ _)

theorem State.decrease_keepsBooks (sn : Snapshot) (shares : List (Fin 32 × Nat)) (s : State) (b : Fin 32) :
    KeepsBooks s (State.decrease sn shares s b) := by
  simp only [State.decrease]
  split
  · exact s.publish_keepsBooks b _
  · exact .refl s

theorem State.writeResults_keepsBooks (s : State) (sn : Snapshot) (shares : List (Fin 32 × Nat)) :
    KeepsBooks s (s.writeResults sn shares) :=
  .of_frame (s.mapBays_frame _) fun b => by
    rw [State.writeResults, State.bay_mapBays]
    split
    · rename_i y r ho _
      split
      · rfl
      · simp only [Bay.disp, Bay.session, ho, Option.map_some]
    · rfl

theorem State.noteIncreases_frame (s : State) (sn : Snapshot) (shares : List (Fin 32 × Nat)) :
    SameBut [.increases] s (s.noteIncreases sn shares) := by
  intro k hk; cases k <;> first | (simp only [Block.same, State.noteIncreases]; done) | simp at hk

theorem State.pendingInc_noteIncreases (s : State) (sn : Snapshot) (shares : List (Fin 32 × Nat)) (b : Fin 32) :
    (s.noteIncreases sn shares).pendingInc b = s.notedIncrease sn shares b := by
  simp [State.pendingInc, State.noteIncreases]

theorem State.finishPass_keepsBooks (s : State) (sn : Snapshot) : KeepsBooks s (s.finishPass sn) := by
  have orders : ∀ u : State, KeepsBooks u (u.replaceOrder sn).evalAtRisk := fun u => .of_eq rfl rfl rfl rfl
  have ends : ∀ u : State, KeepsBooks u u.endPass := fun u => .of_eq rfl rfl rfl rfl
  have notes : ∀ u : State, KeepsBooks u (u.noteIncreases sn sn.shares) := fun u =>
    .of_frame (u.noteIncreases_frame sn sn.shares) fun b => by rw [(u.noteIncreases_frame sn sn.shares).bay (by simp)]
  have first := ((s.writeResults_keepsBooks sn sn.shares).trans (orders _)).trans
    (KeepsBooks.foldl (State.decrease_keepsBooks sn sn.shares) allBays _)
  unfold State.finishPass
  simp only
  refine KeepsBooks.trans ?_ (ends _)
  split
  · exact first.trans ((notes _).trans (State.takeSlot_keepsBooks _ 0))
  · exact first

theorem State.completePass_keepsBooks (s : State) (sn : Snapshot) : KeepsBooks s (s.completePass sn) := by
  have modes : ∀ u : State, KeepsBooks u u.takePendingMode := fun u => by
    unfold State.takePendingMode
    split
    · exact (u.changeMode_spec _).keepsBooks
    · exact .refl u
  have requests : ∀ u : State, KeepsBooks u u.takeHeldRequest := fun u => by
    have clears : KeepsBooks u { u with alloc := { u.alloc with early := false } } := .of_eq rfl rfl rfl rfl
    unfold State.takeHeldRequest
    split
    · simp only
      split
      · exact clears
      · exact clears.trans (State.roundStart_spec _).keepsBooks
    · exact .refl u
  exact ((s.finishPass_keepsBooks sn).trans (modes _)).trans (requests _)

theorem State.assertShed_keepsBooks (s : State) : KeepsBooks s s.assertShed := by
  unfold State.assertShed
  simp only
  refine KeepsBooks.trans ?_ (EarlyRound.keepsBooks (State.requestEarly_spec _))
  have sets : KeepsBooks s { s with env := { s.env with shed := true } } := .of_eq rfl rfl rfl rfl
  have evals : ∀ u : State, KeepsBooks u u.evalShed.evalExceeded := fun u =>
    (u.evalShed_frame.books.trans (State.evalExceeded_frame _).books).keeps
  split
  · exact sets.trans (evals _)
  · exact (sets.trans (State.halveAll_spec _).keepsBooks).trans (evals _)

theorem State.releaseShed_books (s : State) : SameBooks s s.releaseShed := by
  have sets : SameBooks s { s with env := { s.env with shed := false } } := .of rfl rfl rfl rfl rfl rfl rfl rfl rfl
  exact (sets.trans (State.evalShed_frame _).books).trans (State.evalExceeded_frame _).books

theorem State.setupPins_keepsBooks (s : State) (fn dir pins : Byte) : KeepsBooks s (s.setupPins fn dir pins) := by
  unfold State.setupPins
  simp only
  generalize hu' : (if fn.getLsbD 1 = s.pins.fn.getLsbD 1 then _ else _ : State) = u
  have hu : KeepsBooks s u := by
    rw [← hu']
    split <;> exact .of_eq rfl rfl rfl rfl
  split
  · exact hu
  · split
    · split
      · exact hu
      · exact hu.trans u.assertShed_keepsBooks
    · split
      · exact hu.trans u.releaseShed_books.keeps
      · exact hu

end Sys2Proof.Machine
end

section
/-!
SUPPORT. Sessions, roster edits and the index rebuild: how bays and entries come to name each other, and cease to (R6, R9, R10,
R12 to R19, R23).
-/
namespace Sys2Proof.Machine

/-! ### Two ways to change who names whom (R6) -/

/-- Bay `b` ceases to name its slot, and the entry there ceases to name the bay. -/
theorem rosterOk_unlink {s t : State} {b : Fin 32} (h : s.RosterOk)
    (hs : ∀ a, t.namedSlot a = if a = b then none else s.namedSlot a)
    (hb : ∀ k, t.namedBay k = if s.namedSlot b = some k then none else s.namedBay k) : t.RosterOk := by
  intro a k
  rw [hs, hb]
  by_cases hk : s.namedSlot b = some k
  · by_cases e : a = b
    · simp [e, hk]
    · rw [if_neg e, if_pos hk]
      exact ⟨fun ha => absurd (roster_unique h ha hk) e, fun x => absurd x (by simp)⟩
  · by_cases e : a = b
    · rw [if_pos e, if_neg hk, e]
      exact ⟨fun x => absurd x (by simp), fun x => absurd ((h b k).mpr x) hk⟩
    · rw [if_neg e, if_neg hk]; exact h a k

/-- Bay `b`, which named no slot, and slot `k`, whose entry named no bay, come to name each other. -/
theorem rosterOk_link {s t : State} {b : Fin 32} {k : Fin 64} (h : s.RosterOk) (hb : s.namedSlot b = none)
    (hk : s.namedBay k = none) (hs : ∀ a, t.namedSlot a = if a = b then some k else s.namedSlot a)
    (hn : ∀ j, t.namedBay j = if j = k then some b else s.namedBay j) : t.RosterOk := by
  intro a j
  rw [hs, hn]
  by_cases ea : a = b
  · by_cases ej : j = k
    · simp [ea, ej]
    · rw [if_pos ea, if_neg ej, ← h a j, ea, hb]
      simpa [eq_comm] using ej
  · by_cases ej : j = k
    · rw [if_neg ea, if_pos ej, h a j, ej, hk]
      simpa [eq_comm] using ea
    · rw [if_neg ea, if_neg ej]; exact h a j

/-- The slot a disposition names. -/
def Disposition.slot : Disposition → Option (Fin 64)
  | .rostered k => some k
  | _ => none

/-- The bay an entry's state names. -/
def EntryState.bay : EntryState → Option (Fin 32)
  | .plugged b _ => some b
  | _ => none

theorem namedSlot_eq {s : State} {b : Fin 32} {x : Session} (h : (s.bay b).session = some x) :
    s.namedSlot b = x.disp.slot := by
  simp only [State.namedSlot, h]
  cases x.disp <;> rfl

theorem namedBay_eq {s : State} {k : Fin 64} {e : Entry} (h : s.entry k = some e) : s.namedBay k = e.state.bay := by
  simp only [State.namedBay, h]
  cases e.state <;> rfl

theorem Entry.leave_bay (e : Entry) (minute energy : Nat) : (e.leave minute energy).state.bay = none := by
  simp only [Entry.leave]
  split <;> rfl

theorem rosterOk_congr {s t : State} (hs : ∀ b, t.namedSlot b = s.namedSlot b) (hb : ∀ k, t.namedBay k = s.namedBay k)
    (h : s.RosterOk) : t.RosterOk := fun b k => by rw [hs, hb]; exact h b k

theorem namedSlot_of_session {s : State} {b : Fin 32} {x : Session} (h : (s.bay b).session = some x) {k : Fin 64} :
    s.namedSlot b = some k ↔ x.disp = .rostered k := by
  rw [namedSlot_eq h]
  cases x.disp <;> simp [Disposition.slot]

theorem namedSlot_none_of_session {s : State} {b : Fin 32} (h : (s.bay b).session = none) : s.namedSlot b = none := by
  simp [State.namedSlot, h]

theorem namedBay_none {s : State} {k : Fin 64} (h : s.entry k = none) : s.namedBay k = none := by
  simp [State.namedBay, h]

/-! ### Session end (R23) -/

/-- The roster after a session end: the linked entry has left PLUGGED, whether or not the slot holds one. -/
theorem State.endSession_entry {s : State} {b : Fin 32} {x : Session} (h : (s.bay b).session = some x) (k : Fin 64) :
    (s.endSession b).entry k =
      if x.disp = .rostered k then (s.entry k).map (·.leave s.clock.minute x.delivered) else s.entry k := by
  have E := State.endSession_spec h
  split
  · rename_i hd
    cases he : s.entry k with
    | some e => exact E.linked k e hd he
    | none =>
      have hl : s.leavePlugged k x.delivered = s := by simp only [State.leavePlugged, he]
      unfold State.endSession
      rw [h]
      simp only [hd, hl]
      rw [(State.evalSession_frame _).1.entry (by simp), (State.mark_frame _ b).entry (by simp)]
      simpa using he
  · rename_i hd; exact E.entries k hd

theorem State.endSession_keepsBooks (s : State) (b : Fin 32) : KeepsBooks s (s.endSession b) := by
  cases h : (s.bay b).session with
  | none => rw [State.endSession_none h]; exact .refl s
  | some x =>
    have E := State.endSession_spec h
    have he := State.endSession_entry h
    refine ⟨fun hR => rosterOk_unlink (b := b) hR (fun a => ?_) fun k => ?_, index_of_fixed (fun k => ?_)
      (E.frame .index (by simp)) fun r hr => .inr ?_⟩
    · split
      · rename_i e; rw [e]; exact namedSlot_none_of_session (by rw [E.bay]; rfl)
      · rename_i e; exact namedSlot_congr (by rw [E.bays a e])
    · have hk := he k
      by_cases hd : x.disp = .rostered k
      · rw [if_pos hd] at hk
        rw [if_pos ((namedSlot_of_session h).mpr hd)]
        cases hs : s.entry k with
        | none => exact namedBay_none (by rw [hk, hs]; rfl)
        | some e => rw [namedBay_eq (by rw [hk, hs]; rfl), Entry.leave_bay]
      · rw [if_neg hd] at hk
        rw [if_neg fun x => hd ((namedSlot_of_session h).mp x), namedBay_congr hk]
    · rw [he]
      split
      · cases s.entry k <;> rfl
      · rfl
    · rw [← show (s.endSession b).rebuild = s.rebuild from E.frame .rebuild (by simp)]; exact hr

/-! ### Session start (R17, R18) -/

theorem SessionStarts.keepsBooks {s t : State} {b : Fin 32} {tag : Tag} {pveh : Nat} {d : Disposition}
    (h : SessionStarts s t b tag pveh d) (hn : (s.bay b).session = none) : KeepsBooks s t := by
  have slots : ∀ a, t.namedSlot a = if a = b then d.slot else s.namedSlot a := by
    intro a
    by_cases e : a = b
    · rw [if_pos e, e]; exact namedSlot_eq (by rw [h.bay]; rfl)
    · rw [if_neg e]; exact namedSlot_congr (by rw [h.bays a e])
  have window : ∀ r, t.rebuild = some r → r.window ≤ maxWindow ∨ s.rebuild = some r := fun r hr =>
    .inr (by rw [← show t.rebuild = s.rebuild from h.frame .rebuild (by simp)]; exact hr)
  have same : t.roster = s.roster → (∀ k, d ≠ .rostered k) → KeepsBooks s t := fun hr hd => by
    have he : ∀ k, t.entry k = s.entry k := fun k => by simp only [State.entry, hr]
    refine ⟨rosterOk_congr (fun a => ?_) fun k => namedBay_congr (he k), index_of_fixed (fun k => by rw [he])
      (h.frame .index (by simp)) window⟩
    rw [slots a]
    split
    · rename_i e
      rw [e, namedSlot_none_of_session hn]
      cases d with
      | rostered k => exact absurd rfl (hd k)
      | courtesy | refused | duplicate => rfl
    · rfl
  cases hl : s.lookup tag with
  | none =>
    obtain ⟨hd, hr, -⟩ := h.unknown hl
    exact same hr fun k => by rw [hd]; split <;> simp
  | some ke =>
    obtain ⟨k, e⟩ := ke
    by_cases hb : e.barred = true
    · obtain ⟨hd, hr⟩ := h.refused k e hl hb
      exact same hr fun j => by simp [hd]
    · have hb : e.barred = false := by simpa using hb
      by_cases hp : e.pluggedElsewhere b = true
      · obtain ⟨hd, hr, -⟩ := h.duplicate k e hl hb hp
        exact same hr fun j => by simp [hd]
      · obtain ⟨hd, hk, ho⟩ := h.rostered k e hl hb (by simpa using hp)
        obtain ⟨-, he, -, hs⟩ := State.lookup_eq_some.mp hl
        refine ⟨fun hR => ?_, index_of_fixed (fun j => ?_) (h.frame .index (by simp)) window⟩
        · have free : s.namedBay k = none := by
            have hne : s.namedBay k ≠ some b := fun x => by
              have := (hR b k).mpr x
              rw [namedSlot_none_of_session hn] at this; cases this
            rw [namedBay_eq he] at hne ⊢
            cases hst : e.state with
            | waiting | departed => rfl
            | plugged a o =>
              rw [hst] at hne
              simp only [Entry.pluggedElsewhere, hst, bne_iff_ne, ne_eq, not_not] at hp
              exact absurd (by rw [hp]; rfl) hne
          refine rosterOk_link hR (namedSlot_none_of_session hn) free (fun a => by rw [slots a, hd]; rfl) fun j => ?_
          by_cases ej : j = k
          · rw [if_pos ej, ej, namedBay_eq hk]; rfl
          · rw [if_neg ej, namedBay_congr (ho j ej)]
        · by_cases ej : j = k
          · rw [ej, hk, he]; rfl
          · rw [ho j ej]

/-! ### Relinking (R15) -/

theorem State.onSession_some {s : State} {b : Fin 32} {x : Session} (f : Session → Session) (h : (s.bay b).session = some x) :
    s.onSession b f = s.setBay b { s.bay b with occ := .session (f x) } := by simp only [State.onSession, h]

theorem State.onSession_none {s : State} {b : Fin 32} (f : Session → Session) (h : (s.bay b).session = none) :
    s.onSession b f = s := by simp only [State.onSession, h]

theorem State.onSession_frame (s : State) (b : Fin 32) (f : Session → Session) : SameBut [.bays] s (s.onSession b f) := by
  cases h : (s.bay b).session with
  | none => rw [State.onSession_none f h]; exact SameBut.refl _ s
  | some x => rw [State.onSession_some f h]; exact s.setBay_frame b _

theorem State.onSession_namedSlot {s : State} {b : Fin 32} {x : Session} (f : Session → Session)
    (h : (s.bay b).session = some x) (a : Fin 32) :
    (s.onSession b f).namedSlot a = if a = b then (f x).disp.slot else s.namedSlot a := by
  rw [State.onSession_some f h]
  by_cases e : a = b
  · rw [if_pos e, e]; exact namedSlot_eq (by rw [State.bay_setBay, if_pos rfl]; rfl)
  · rw [if_neg e]; exact namedSlot_congr (by rw [State.bay_setBay, if_neg e])

/-- A bay with a claim to no slot names none. -/
theorem State.relinks_namedSlot {s : State} {g : Tag} {b : Fin 32} (h : s.relinks g b = true) : s.namedSlot b = none := by
  obtain ⟨y, hy⟩ := State.relinks_session h
  rw [namedSlot_eq hy]
  simp only [State.relinks, hy, Bool.and_eq_true, Bool.or_eq_true, beq_iff_eq] at h
  rcases h.2 with e | e <;> rw [e] <;> rfl

/-- Bays that name no slot, denied one by one, change no name. -/
theorem deny_walk_namedSlot {s : State} {d : Disposition} (hd : d.slot = none) {l : List (Fin 32)} (hl : l.Nodup)
    (hn : ∀ b ∈ l, s.namedSlot b = none) (a : Fin 32) :
    (l.foldl (fun t b => t.onSession b (·.deny d)) s).namedSlot a = s.namedSlot a := by
  obtain ⟨hout, hin, hfree, -⟩ := deny_walk s d l hl
  by_cases ha : a ∈ l
  · cases hs : (s.bay a).session with
    | none => exact namedSlot_congr (by rw [hfree a hs])
    | some y => rw [hn a ha]; exact (namedSlot_eq (by rw [hin a y ha hs]; rfl)).trans hd
  · exact namedSlot_congr (by rw [hout a ha])

theorem KeepsBooks.of_walk {l : List Block} {s t : State} (f : SameBut l s t) (hn : ∀ b, t.namedSlot b = s.namedSlot b)
    (hr : .roster ∉ l := by decide) (hi : .index ∉ l := by decide) (hw : .rebuild ∉ l := by decide) : KeepsBooks s t where
  roster := rosterOk_congr hn fun k => namedBay_congr (f.entry hr k)
  index := index_of_fixed (fun k => by rw [f.entry hr]) (f .index hi)
    fun r h => .inr (by rwa [← show t.rebuild = s.rebuild from f .rebuild hw])

/-- The bays that a put relinks, in bay order (R15). -/
def State.relinked (s : State) (t : Tag) : List (Fin 32) := allBays.filter (s.relinks t)

theorem State.relinked_nodup (s : State) (t : Tag) : (s.relinked t).Nodup := allBays_nodup.filter _

theorem State.mem_relinked {s : State} {t : Tag} {b : Fin 32} : b ∈ s.relinked t ↔ s.relinks t b = true := by
  simp [State.relinked]

theorem State.linkBays_keepsBooks {s : State} {k : Fin 64} {e : Entry} (he : s.entry k = some e) (hw : e.state = .waiting)
    {l : List (Fin 32)} (hl : l.Nodup) (hr : ∀ b ∈ l, s.relinks e.tag b = true) : KeepsBooks s (s.linkBays k e l) := by
  cases l with
  | nil => exact .refl s
  | cons b rest =>
    obtain ⟨hb, hrest⟩ := List.nodup_cons.mp hl
    obtain ⟨y, hy⟩ := State.relinks_session (hr b (by simp))
    have hbn := State.relinks_namedSlot (hr b (by simp))
    set t := (s.onSession b (·.grantSlot k)).setEntry k (some { e with state := .plugged b false }) with ht
    have slots : ∀ a, t.namedSlot a = if a = b then some k else s.namedSlot a := fun a =>
      State.onSession_namedSlot (·.grantSlot k) hy a
    have entries : ∀ j, t.entry j = if j = k then some { e with state := .plugged b false } else s.entry j := fun j => by
      rw [ht, State.entry_setEntry, (s.onSession_frame b _).entry (by simp)]
    have link : KeepsBooks s t := by
      refine ⟨fun hR => rosterOk_link hR hbn (by rw [namedBay_eq he, hw]; rfl) slots fun j => ?_,
        index_of_fixed (fun j => ?_) ((s.onSession_frame b _) .index (by simp)) fun r h => .inr ?_⟩
      · have hj := entries j
        by_cases ej : j = k
        · rw [if_pos ej] at hj ⊢; rw [namedBay_eq hj]; rfl
        · rw [if_neg ej] at hj ⊢; exact namedBay_congr hj
      · rw [entries]
        split
        · rename_i ej; rw [ej, he]; rfl
        · rfl
      · rw [← show t.rebuild = s.rebuild from (s.onSession_frame b _) .rebuild (by simp)]; exact h
    have others : ∀ u : State, (∀ a, u.namedSlot a = t.namedSlot a) → SameBut [.bays] t u → KeepsBooks t u :=
      fun u hn f => .of_walk f hn
    have walk := others _ (deny_walk_namedSlot (s := t) (d := .duplicate) rfl (List.nodup_cons.mp hl).2 fun a ha => by
      have hab : a ≠ b := fun x => hb (x ▸ ha)
      rw [slots a, if_neg hab]
      exact State.relinks_namedSlot (hr a (by simp [ha]))) (deny_walk t .duplicate rest hrest).2.2.2
    simp only [State.linkBays]
    split
    · exact link.trans walk
    · exact (link.trans walk).trans (State.raiseD_frame _ _).books.keeps

theorem State.relink_keepsBooks (s : State) (k : Fin 64) : KeepsBooks s (s.relink k) := by
  unfold State.relink
  split
  · exact .refl s
  · rename_i e he
    split
    · rename_i hw
      have hr : ∀ b ∈ s.relinked e.tag, s.relinks e.tag b = true := fun b hb => State.mem_relinked.mp hb
      simp only
      split
      · exact .of_walk (deny_walk s .refused _ (s.relinked_nodup e.tag)).2.2.2
          (deny_walk_namedSlot rfl (s.relinked_nodup e.tag) fun b hb => State.relinks_namedSlot (hr b hb))
      · exact State.linkBays_keepsBooks he hw (s.relinked_nodup e.tag) hr
    · exact .refl s

/-! ### ROSTER PUT and ROSTER DROP (R12 to R16) -/

/-- The fields of a put lie in the ranges of R5 and R12. -/
theorem putFields_ok {l : List Byte} {f : PutFields} (h : putFields l = some f) :
    f.departure ≤ lastMinute ∧ f.target ≤ maxTarget ∧ f.cls ≤ 3 := by
  unfold putFields at h
  split at h
  · cases h; exact ⟨min_le_left _ _, min_le_left _ _, min_le_left _ _⟩
  · cases h

theorem State.slotOf_some {s : State} {t : Tag} {k : Fin 64} (h : s.slotOf t = some k) : ∃ e, s.entry k = some e ∧ e.tag = t := by
  have hp := List.find?_some h
  cases he : s.entry k with
  | none => simp [he] at hp
  | some e => exact ⟨e, rfl, by simpa [he] using hp⟩

theorem State.freeSlot_some {s : State} {k : Fin 64} (h : s.freeSlot = some k) : s.entry k = none := by
  have hp := List.find?_some h
  simpa using hp

/-- An entry replaced by one of the same tag, in range. -/
theorem index_setEntry {s : State} {k : Fin 64} {e f : Entry} (he : s.entry k = some e) (ht : f.tag = e.tag) (hf : f.Ok)
    (hI : s.IndexOk) (hE : s.EntriesOk) : (s.setEntry k (some f)).IndexOk ∧ (s.setEntry k (some f)).EntriesOk := by
  refine ⟨⟨fun j g hj => ?_, fun i j hj => ?_, hI.window, hI.rebuild⟩, fun j g hj => ?_⟩
  · rw [State.entry_setEntry] at hj
    split at hj
    · rename_i ej; cases hj; rw [ej, ht]; exact hI.held k e he
    · exact hI.held j g hj
  · obtain ⟨g, hg, hi⟩ := hI.only i j hj
    by_cases ej : j = k
    · rw [ej, he] at hg; cases hg
      exact ⟨f, by rw [State.entry_setEntry, if_pos ej], by rw [ht]; exact hi⟩
    · exact ⟨g, by rw [State.entry_setEntry, if_neg ej]; exact hg, hi⟩
  · rw [State.entry_setEntry] at hj
    split at hj
    · cases hj; exact hf
    · exact hE j g hj

theorem State.setEntry_put_keepsBooks {s : State} {k : Fin 64} {e : Entry} {f : PutFields} (he : s.entry k = some e)
    (hf : f.departure ≤ lastMinute ∧ f.target ≤ maxTarget ∧ f.cls ≤ 3) : KeepsBooks s (s.setEntry k (some (e.put f))) where
  roster := rosterOk_congr (fun _ => rfl) fun j => by
    by_cases ej : j = k
    · rw [ej, namedBay_eq he, namedBay_eq (e := e.put f) (by rw [State.entry_setEntry, if_pos rfl])]; rfl
    · exact namedBay_congr (by rw [State.entry_setEntry, if_neg ej])
  index := index_setEntry he rfl ⟨hf.1, hf.2.1, hf.2.2⟩

/-- A put that bars a PLUGGED entry: bay and entry cease to name each other (R13). -/
theorem State.barEntry_keepsBooks {s : State} {k : Fin 64} {b : Fin 32} {o : Bool} {e : Entry} (he : s.entry k = some e)
    (hp : e.state = .plugged b o) : KeepsBooks s (s.barEntry k b) := by
  unfold State.barEntry
  generalize (((s.bay b).session).map (·.delivered)).getD 0 = n
  set t := s.leavePlugged k n with ht
  have et : t = (s.setEntry k (some (e.leave s.clock.minute n))).evalOverdue := by simp only [ht, State.leavePlugged, he]
  have entries : ∀ j, t.entry j = if j = k then some (e.leave s.clock.minute n) else s.entry j := fun j => by
    rw [et, State.evalOverdue_entry, State.entry_setEntry]
  have ff : SameBut [.roster, .dset] s t := by
    rw [et]; exact (s.setEntry_frame k _).comp (State.evalOverdue_frame _) (by simp) (by simp)
  have fs := t.onSession_frame b (·.deny .refused)
  refine ⟨fun hR => ?_, index_of_fixed (fun j => ?_) ((fs .index (by simp)).trans (ff .index (by simp))) fun r h => .inr ?_⟩
  · have hs : s.namedSlot b = some k := (hR b k).mpr (by rw [namedBay_eq he, hp]; rfl)
    obtain ⟨y, hy⟩ : ∃ y, (s.bay b).session = some y := by
      cases h : (s.bay b).session with
      | none => rw [namedSlot_none_of_session h] at hs; cases hs
      | some y => exact ⟨y, rfl⟩
    refine rosterOk_unlink (b := b) hR (fun a => ?_) fun j => ?_
    · rw [State.onSession_namedSlot (·.deny .refused) (by rw [ff.bay (by simp)]; exact hy)]
      split
      · rfl
      · exact namedSlot_congr (by rw [ff.bay (by simp)])
    · have hj : (t.onSession b (·.deny .refused)).entry j = _ := (fs.entry (by simp) j).trans (entries j)
      by_cases ej : j = k
      · rw [if_pos ej] at hj
        rw [namedBay_eq hj, Entry.leave_bay, ej, if_pos hs]
      · rw [if_neg ej] at hj
        rw [namedBay_congr hj, if_neg]
        rw [hs]; simpa [eq_comm] using ej
  · rw [fs.entry (by simp), entries]
    split
    · rename_i ej; rw [ej, he]; rfl
    · rfl
  · rw [← show (t.onSession b (·.deny .refused)).rebuild = s.rebuild from
      (fs .rebuild (by simp)).trans (ff .rebuild (by simp))]
    exact h

theorem State.updateEntry_keepsBooks {s : State} {k : Fin 64} {e : Entry} {f : PutFields} (he : s.entry k = some e)
    (hf : f.departure ≤ lastMinute ∧ f.target ≤ maxTarget ∧ f.cls ≤ 3) : KeepsBooks s (s.updateEntry k e f) := by
  have put := State.setEntry_put_keepsBooks he hf
  simp only [State.updateEntry]
  split
  · rename_i b o hs
    split
    · refine put.trans (State.barEntry_keepsBooks (e := e.put f) (o := o) ?_ hs)
      rw [State.entry_setEntry, if_pos rfl]
    · exact put
  · exact put

theorem State.addEntry_keepsBooks {s : State} {k : Fin 64} {f : PutFields} (hk : s.entry k = none)
    (hi : s.indexAt (tagEntry s.index.window f.tag) = none)
    (hf : f.departure ≤ lastMinute ∧ f.target ≤ maxTarget ∧ f.cls ≤ 3) : KeepsBooks s (s.addEntry k f) := by
  set e : Entry := { tag := f.tag, departure := f.departure, target := f.target, cls := f.cls, barred := f.barred,
                     state := .waiting, lastEnergy := none } with he
  have entries : ∀ j, (s.addEntry k f).entry j = if j = k then some e else s.entry j := s.entry_setEntry k (some e)
  have places : ∀ i, (s.addEntry k f).indexAt i = if i = tagEntry s.index.window f.tag then some k else s.indexAt i :=
    State.indexAt_setIndex _ _ _
  refine ⟨rosterOk_congr (fun _ => rfl) fun j => ?_, fun hI hE => ⟨⟨fun j g hj => ?_, fun i j hj => ?_, hI.window,
    hI.rebuild⟩, fun j g hj => ?_⟩⟩
  · have hj := entries j
    by_cases ej : j = k
    · rw [if_pos ej] at hj; rw [namedBay_eq hj, ej, namedBay_none hk]; rfl
    · rw [if_neg ej] at hj; exact namedBay_congr hj
  · rw [entries] at hj
    rw [places]
    split at hj
    · rename_i ej; cases hj; rw [ej]; exact if_pos rfl
    · have := hI.held j g hj
      rw [if_neg]
      · exact this
      · intro e; rw [show tagEntry s.index.window g.tag = _ from e, hi] at this; cases this
  · rw [places] at hj
    split at hj
    · rename_i ei; cases hj; exact ⟨e, by rw [entries, if_pos rfl], ei.symm⟩
    · obtain ⟨g, hg, hgi⟩ := hI.only i j hj
      refine ⟨g, ?_, hgi⟩
      rw [entries, if_neg]
      · exact hg
      · rintro rfl; rw [hk] at hg; cases hg
  · rw [entries] at hj
    split at hj
    · cases hj; exact ⟨hf.1, hf.2.1, hf.2.2⟩
    · exact hE j g hj

theorem rosterPutBody_keepsBooks (m : Msg) (s : State) : KeepsBooks s (rosterPutBody m s).1 := by
  unfold rosterPutBody
  split
  · exact .refl s
  · rename_i f hf
    have hf := putFields_ok hf
    split
    · split
      · rename_i e he
        exact (State.updateEntry_keepsBooks he hf).trans (State.relink_keepsBooks _ _)
      · exact .refl s
    · split
      · exact .refl s
      · rename_i hi
        split
        · exact .refl s
        · rename_i k hk
          refine (State.addEntry_keepsBooks (State.freeSlot_some hk) ?_ hf).trans (State.relink_keepsBooks _ _)
          simpa using hi

/-- An entry that is not PLUGGED, dropped with its index place (R16). -/
theorem State.drop_keepsBooks {s : State} {k : Fin 64} {e : Entry} (he : s.entry k = some e) (hp : e.isPlugged = false) :
    KeepsBooks s ((s.setEntry k none).setIndex (tagEntry s.index.window e.tag) none) := by
  set t := (s.setEntry k none).setIndex (tagEntry s.index.window e.tag) none with ht
  have entries : ∀ j, t.entry j = if j = k then none else s.entry j := s.entry_setEntry k none
  have places : ∀ i, t.indexAt i = if i = tagEntry s.index.window e.tag then none else s.indexAt i :=
    State.indexAt_setIndex _ _ _
  refine ⟨rosterOk_congr (fun _ => rfl) fun j => ?_, fun hI hE => ⟨⟨fun j g hj => ?_, fun i j hj => ?_, hI.window,
    hI.rebuild⟩, fun j g hj => ?_⟩⟩
  · have hj := entries j
    by_cases ej : j = k
    · rw [if_pos ej] at hj
      rw [namedBay_none hj, ej, namedBay_eq he]
      unfold Entry.isPlugged at hp
      cases hs : e.state with
      | plugged b o => rw [hs] at hp; cases hp
      | waiting | departed => rfl
    · rw [if_neg ej] at hj; exact namedBay_congr hj
  · rw [entries] at hj
    split at hj
    · cases hj
    · rename_i ej
      have hjg := hI.held j g hj
      rw [places]
      split
      · rename_i ei
        rw [show tagEntry s.index.window g.tag = _ from ei, hI.held k e he] at hjg
        exact absurd (Option.some.inj hjg).symm ej
      · exact hjg
  · rw [places] at hj
    split at hj
    · cases hj
    · rename_i ei
      obtain ⟨g, hg, hgi⟩ := hI.only i j hj
      refine ⟨g, ?_, hgi⟩
      rw [entries, if_neg]
      · exact hg
      · rintro rfl; rw [he] at hg; cases hg; exact ei hgi.symm
  · rw [entries] at hj
    split at hj
    · cases hj
    · exact hE j g hj

theorem rosterDropBody_keepsBooks (m : Msg) (s : State) : KeepsBooks s (rosterDropBody m s).1 := by
  unfold rosterDropBody
  split
  · simp only
    split
    · exact .refl s
    · rename_i k hk
      obtain ⟨e, he, ht⟩ := State.slotOf_some hk
      rw [he]
      simp only
      split
      · exact .refl s
      · rename_i hp
        rw [← ht]
        exact State.drop_keepsBooks he (by simpa using hp)
  · exact .refl s

end Sys2Proof.Machine
end

section
/-!
PROOFS. The index rebuild (R9, R10), and roster, bays and Tag Index through every step (R5, R6, R7).
-/
namespace Sys2Proof.Machine

/-! ### The rebuilt index (R9) -/

/-- The entries of the slots of `l` stand apart under window start `w`, and `v` holds them and nothing else. -/
def State.IndexedBy (s : State) (w : Nat) (l : List (Fin 64)) (v : IndexSlots) : Prop :=
  ∀ i j, v[i] = some j ↔ j ∈ l ∧ ∃ e, s.entry j = some e ∧ tagEntry w e.tag = i

/-- Two occupied slots fall into one index entry under window start `w` (R9). -/
def State.Collides (s : State) (w : Nat) : Prop :=
  ∃ j i e f, j ≠ i ∧ s.entry j = some e ∧ s.entry i = some f ∧ tagEntry w e.tag = tagEntry w f.tag

theorem getElem_set_index (v : IndexSlots) (i j : Fin 256) (x : Option (Fin 64)) :
    (v.set i.val x)[j] = if j = i then x else v[j] := by
  simp only [Fin.getElem_fin, Vector.getElem_set, Fin.ext_iff, eq_comm]

theorem State.rebuiltIndex_spec (s : State) (w : Nat) :
    match s.rebuiltIndex w with
    | some v => s.IndexedBy w allSlots v
    | none => s.Collides w := by
  refine foldl_prefix (P := fun l acc => match acc with
    | some v => s.IndexedBy w l v
    | none => s.Collides w) ?_ ?_ allSlots (List.nodup_finRange 64)
  · intro i j; simp
  · intro l k acc hk hacc
    cases acc with
    | none => exact hacc
    | some v =>
      cases he : s.entry k with
      | none =>
        simp only [State.rebuildSlot, he]
        intro i j
        rw [hacc i j]
        refine ⟨fun ⟨hj, h⟩ => ⟨by simp [hj], h⟩, fun ⟨hj, e, hej, h⟩ => ⟨?_, e, hej, h⟩⟩
        rcases List.mem_append.mp hj with hj | hj
        · exact hj
        · obtain rfl : j = k := by simpa using hj
          rw [he] at hej; cases hej
      | some e =>
        simp only [State.rebuildSlot, he]
        cases hv : v[tagEntry w e.tag] with
        | some j =>
          simp only [Option.isSome_some, if_true]
          obtain ⟨hj, f, hf, ht⟩ := (hacc _ j).mp hv
          exact ⟨j, k, f, e, fun x => hk (x ▸ hj), hf, he, ht⟩
        | none =>
          simp only [Option.isSome_none, Bool.false_eq_true, if_false]
          intro i j
          rw [getElem_set_index]
          by_cases hi : i = tagEntry w e.tag
          · rw [if_pos hi]
            constructor
            · rintro ⟨⟩; exact ⟨by simp, e, he, hi.symm⟩
            · rintro ⟨hj, f, hf, ht⟩
              rcases List.mem_append.mp hj with hj | hj
              · have := (hacc i j).mpr ⟨hj, f, hf, ht⟩
                rw [hi, hv] at this; cases this
              · rw [show j = k by simpa using hj]
          · rw [if_neg hi, hacc i j]
            refine ⟨fun ⟨hj, h⟩ => ⟨by simp [hj], h⟩, fun ⟨hj, f, hf, ht⟩ => ⟨?_, f, hf, ht⟩⟩
            rcases List.mem_append.mp hj with hj | hj
            · exact hj
            · obtain rfl : j = k := by simpa using hj
              rw [he] at hf; cases hf; exact absurd ht.symm hi

/-- The state with the rebuild ended, and the new index and window taken, if any (R10). -/
def State.withIndex (s : State) (x : TagIndex) : State := { s with index := x, rebuild := none }

theorem State.endRebuild_taken {s : State} {r : Rebuild} {v : IndexSlots} (h : s.rebuiltIndex r.window = some v) :
    s.endRebuild r = (s.withIndex { slots := v, window := r.window }).reply .d (tagWindowAnswer (okResult r.clamped)) := by
  unfold State.endRebuild
  generalize s.rebuiltIndex r.window = z at h
  subst h
  rfl

theorem State.endRebuild_collision {s : State} {r : Rebuild} (h : s.rebuiltIndex r.window = none) :
    s.endRebuild r = (s.withIndex s.index).reply .d (tagWindowAnswer Flag.collision.result) := by
  unfold State.endRebuild
  generalize s.rebuiltIndex r.window = z at h
  subst h
  rfl

theorem State.withIndex_keepsBooks {s : State} {v : IndexSlots} {w : Nat} (hv : s.IndexedBy w allSlots v)
    (hw : s.IndexOk → w ≤ maxWindow) : KeepsBooks s (s.withIndex { slots := v, window := w }) where
  roster := rosterOk_congr (fun _ => rfl) fun _ => rfl
  index := fun hI hE => ⟨⟨fun k e he => (hv (tagEntry w e.tag) k).mpr ⟨mem_allSlots k, e, he, rfl⟩,
    fun i k hk => ((hv i k).mp hk).2, hw hI, fun x hx => by cases hx⟩, hE⟩

/-- The end of a rebuild keeps the index true of the roster: the new one is, and on a collision the old one stays (R10). -/
theorem State.endRebuild_keepsBooks {s : State} {r : Rebuild} (hr : s.rebuild = some r) : KeepsBooks s (s.endRebuild r) := by
  have spec := s.rebuiltIndex_spec r.window
  cases hv : s.rebuiltIndex r.window with
  | some v =>
    rw [hv] at spec
    rw [State.endRebuild_taken hv]
    exact (State.withIndex_keepsBooks spec fun hI => hI.rebuild r hr).trans (State.reply_frame _ .d _).books.keeps
  | none =>
    rw [State.endRebuild_collision hv]
    have ends : KeepsBooks s (s.withIndex s.index) :=
      .of_disp (fun _ => rfl) (fun _ => rfl) rfl fun x hx => by cases hx
    exact ends.trans (State.reply_frame _ .d _).books.keeps

theorem tagWindowBody_keepsBooks (m : Msg) (s : State) : KeepsBooks s (tagWindowBody m s).1 := by
  unfold tagWindowBody
  split
  · split
    · exact .of_disp (fun _ => rfl) (fun _ => rfl) rfl fun x hx => by cases hx; exact .inl (min_le_left _ _)
    · exact .refl s
  · exact .refl s

/-! ### Outlets, sessions and departures (R4, R18, R19, R32) -/

/-- A frame that holds neither bays, roster, index nor rebuild. -/
theorem SameBut.keepsBooks {l : List Block} {s t : State} (h : SameBut l s t) (hb : .bays ∉ l := by decide)
    (hr : .roster ∉ l := by decide) (hi : .index ∉ l := by decide) (hw : .rebuild ∉ l := by decide) : KeepsBooks s t :=
  .of_frame h (fun b => by rw [h.bay hb]) hr hi hw

theorem State.unfitOutlet_keepsBooks (s : State) (b : Fin 32) : KeepsBooks s (s.unfitOutlet b) := by
  unfold State.unfitOutlet
  split
  · exact .refl s
  · have closed : ((s.endSession b).bay b).session = none := by
      cases h : (s.bay b).session with
      | none => rw [State.endSession_none h]; exact h
      | some x => rw [(State.endSession_spec h).bay]; rfl
    refine (s.endSession_keepsBooks b).trans (KeepsBooks.trans (State.setBay_keepsBooks ?_)
      (State.mark_frame _ b).keepsBooks)
    simp only [Bay.disp, closed]; rfl

theorem State.fitOutlet_keepsBooks (s : State) (b : Fin 32) (cap : Nat) : KeepsBooks s (s.fitOutlet b cap) := by
  simp only [State.fitOutlet]
  split
  · rename_i hu
    refine KeepsBooks.trans (State.setBay_keepsBooks ?_) (State.mark_frame _ b).keepsBooks
    simp only [Bay.disp, Bay.session, hu]
  · refine KeepsBooks.trans ?_ (State.limitVehicle_keepsBooks _ b)
    exact State.setBay_keepsBooks rfl

theorem State.applyOutlets_keepsBooks (s : State) (c : Fin 4) (l : List (Byte × Nat)) : KeepsBooks s (s.applyOutlets c l) :=
  KeepsBooks.foldl (fun u o => by
    split
    · exact u.fitOutlet_keepsBooks _ _
    · exact u.unfitOutlet_keepsBooks _) allOutlets s

theorem outletsBody_keepsBooks (c : Fin 4) (m : Msg) (s : State) : KeepsBooks s (outletsBody c m s).1 := by
  simp only [outletsBody]
  split
  · exact s.applyOutlets_keepsBooks c _
  · exact .refl s

theorem State.endSession_closes (s : State) (b : Fin 32) : ((s.endSession b).bay b).session = none := by
  cases h : (s.bay b).session with
  | none => rw [State.endSession_none h]; exact h
  | some x => rw [(State.endSession_spec h).bay]; rfl

theorem plugBody_keepsBooks (c : Fin 4) (m : Msg) (s : State) : KeepsBooks s (plugBody c m s).1 := by
  unfold plugBody
  split
  · simp only
    split
    · exact .refl s
    · exact (s.endSession_keepsBooks _).trans ((State.startSession_spec _ _ _ _).keepsBooks (s.endSession_closes _))
  · exact .refl s

theorem unplugBody_keepsBooks (c : Fin 4) (m : Msg) (s : State) : KeepsBooks s (unplugBody c m s).1 := by
  simp only [unplugBody]
  split
  · exact .refl s
  · exact .refl s
  · exact s.endSession_keepsBooks _

theorem State.meter_keepsBooks {s : State} {b : Fin 32} {x : Session} (h : (s.bay b).session = some x) (f : MeterFields) :
    KeepsBooks s (s.meter b x f) := by
  have takes : ∀ u : State, KeepsBooks u (u.takeApplied b f) := fun u => by
    unfold State.takeApplied
    split
    · exact u.resync_keepsBooks b _ _
    · exact u.confirm_keepsBooks b _
  refine KeepsBooks.trans ?_ (State.satisfy_keepsBooks _ b)
  refine KeepsBooks.trans ?_ (takes _)
  refine KeepsBooks.trans ?_ (State.limitVehicle_keepsBooks _ b)
  exact State.setBay_keepsBooks (by simp only [Bay.disp, h]; rfl)

theorem meterBody_keepsBooks (c : Fin 4) (m : Msg) (s : State) : KeepsBooks s (meterBody c m s).1 := by
  simp only [meterBody]
  split
  · rename_i f x _ hx
    simp only
    split
    · exact State.meter_keepsBooks hx f
    · exact s.endSession_keepsBooks _
  · exact .refl s

theorem appliedBody_keepsBooks (c : Fin 4) (m : Msg) (s : State) : KeepsBooks s (appliedBody c m s).1 := by
  unfold appliedBody
  split
  · exact s.confirm_keepsBooks _ _
  · exact .refl s

theorem State.faultOutlet_keepsBooks {s : State} {b : Fin 32} {x : Session} (h : (s.bay b).session = some x) (code : Byte) :
    KeepsBooks s (s.faultOutlet b x code) := by
  have stores : KeepsBooks s (s.setBay b { s.bay b with occ := .session { x with phase := .fault code } }) :=
    State.setBay_keepsBooks (by simp only [Bay.disp, h]; rfl)
  simp only [State.faultOutlet]
  refine KeepsBooks.trans ?_ (State.raiseS_frame _ _).keepsBooks
  split
  · exact stores
  · exact stores.trans (State.publish_keepsBooks _ b 0)

theorem outletFaultBody_keepsBooks (c : Fin 4) (m : Msg) (s : State) : KeepsBooks s (outletFaultBody c m s).1 := by
  unfold outletFaultBody
  split
  · simp only
    split
    · exact .refl s
    · exact .refl s
    · rename_i x hx
      exact State.faultOutlet_keepsBooks (Bay.session_eq_some.mpr hx) _
  · exact .refl s

theorem State.evaluateDepartures_keepsBooks (s : State) : KeepsBooks s s.evaluateDepartures := by
  obtain ⟨he, -, hf⟩ := s.evaluateDepartures_spec
  refine ⟨rosterOk_congr (fun b => namedSlot_congr (by rw [hf.bay (by simp)])) fun k => ?_, index_of_fixed (fun k => ?_)
    (hf .index (by simp)) fun r h => .inr ?_⟩
  · have hk := he k
    cases hs : s.entry k with
    | none => rw [hs] at hk; rw [namedBay_none hs, namedBay_none hk]
    | some e =>
      rw [hs] at hk
      rw [namedBay_eq hk, namedBay_eq hs]
      unfold departed
      split
      · rfl
      · cases hst : e.state <;> simp only [EntryState.bay, hst]
  · rw [he]
    cases s.entry k with
    | none => rfl
    | some e =>
      simp only [Option.map_some, departed]
      split
      · rfl
      · cases e.state <;> rfl
  · rwa [← show s.evaluateDepartures.rebuild = s.rebuild from hf .rebuild (by simp)]

theorem State.minuteTick_keepsBooks (s : State) : KeepsBooks s s.minuteTick := by
  have ticks : KeepsBooks s { s with clock := { s.clock with minute := min lastMinute (s.clock.minute + 1) } } :=
    .of_eq rfl rfl rfl rfl
  exact ticks.trans (State.evaluateDepartures_keepsBooks _)

theorem clockSetBody_keepsBooks (m : Msg) (s : State) : KeepsBooks s (clockSetBody m s).1 := by
  unfold clockSetBody
  split
  · refine KeepsBooks.trans ?_ (State.evaluateDepartures_keepsBooks _)
    exact .of_eq rfl rfl rfl rfl
  · exact .refl s

/-! ### Restart and reset (R26, R161, R163) -/

theorem State.restartBlocks_bay (s : State) (b : Fin 32) : s.restartBlocks.bay b = Bay.powerOn (s.bay b).slot := by
  simp [State.restartBlocks, State.bay, Bay.restarted]

theorem State.restartBlocks_entry (s : State) (k : Fin 64) : s.restartBlocks.entry k = (s.entry k).map s.restartEntry := by
  simp [State.restartBlocks, State.entry]

theorem State.handConditions_frame (s : State) : SameBut [.dset, .sset] s s.handConditions := by
  have h1 := s.evalOverdue_frame.comp (State.evalAtRisk_frame _) (l := [.dset, .sset]) (by simp) (by simp)
  have h2 := h1.comp (State.evalExceeded_frame _) (l := [.dset, .sset]) (by simp) (by simp)
  have h3 := h2.comp (State.evalShed_frame _) (l := [.dset, .sset]) (by simp) (by simp)
  have h4 := h3.comp (State.evalLinkTrouble_frame _) (l := [.dset, .sset]) (by simp) (by simp)
  have h5 := h4.comp (State.evalStaleCabinet_frame _) (l := [.dset, .sset]) (by simp) (by simp)
  have h6 := h5.comp (State.evalLoadStale_frame _) (l := [.dset, .sset]) (by simp) (by simp)
  exact h6.comp (State.evalUnconfirmed_frame _) (by simp) (by simp)

theorem State.restart_keepsBooks (s : State) : KeepsBooks s s.restart := by
  refine KeepsBooks.trans (t := s.restartBlocks) ?_ s.restartBlocks.handConditions_frame.keepsBooks
  have hb : ∀ b, s.restartBlocks.namedSlot b = none := fun b =>
    namedSlot_none_of_session (by rw [s.restartBlocks_bay]; rfl)
  have he : ∀ k, s.restartBlocks.namedBay k = none := fun k => by
    have hk := s.restartBlocks_entry k
    cases hs : s.entry k with
    | none => rw [hs] at hk; exact namedBay_none hk
    | some e =>
      rw [hs] at hk
      rw [namedBay_eq hk]
      unfold State.restartEntry
      cases hst : e.state <;> simp only [EntryState.bay, hst]
  refine ⟨fun _ b k => by rw [hb, he]; simp, index_of_fixed (fun k => ?_) rfl fun r hr => by cases hr⟩
  rw [s.restartBlocks_entry]
  cases s.entry k with
  | none => rfl
  | some e =>
    simp only [Option.map_some, State.restartEntry]
    cases e.state <;> rfl

theorem powerOn_bay (cabs baud : BitVec 2) (pins : Byte) (b : Fin 32) :
    (State.powerOn cabs baud pins).bay b = Bay.powerOn ⟨b.val % 4, Nat.mod_lt _ (by decide)⟩ := by
  simp [State.powerOn, State.bay]

theorem powerOn_entry (cabs baud : BitVec 2) (pins : Byte) (k : Fin 64) : (State.powerOn cabs baud pins).entry k = none := by
  simp [State.powerOn, State.entry]

theorem powerOn_indexAt (cabs baud : BitVec 2) (pins : Byte) (i : Fin 256) :
    (State.powerOn cabs baud pins).indexAt i = none := by
  simp [State.powerOn, State.indexAt]

theorem powerOn_keepsBooks (s : State) (cabs baud : BitVec 2) (pins : Byte) :
    KeepsBooks s (State.powerOn cabs baud pins) where
  roster _ b k := by
    rw [namedSlot_none_of_session (by rw [powerOn_bay]; rfl), namedBay_none (powerOn_entry _ _ _ k)]; simp
  index _ _ := by
    have none_at : ∀ k e, (State.powerOn cabs baud pins).entry k ≠ some e := fun k e h => by
      rw [powerOn_entry] at h; cases h
    refine ⟨⟨fun k e he => absurd he (none_at k e), fun i k hk => ?_, Nat.zero_le _, fun r hr => by cases hr⟩,
      fun k e he => absurd he (none_at k e)⟩
    rw [powerOn_indexAt] at hk; cases hk

/-! ### Links (R100 to R122) -/

theorem State.reject_keepsBooks (s : State) (p : Port) : KeepsBooks s (s.reject p) := by
  by_cases h : (s.port p).health = .detached
  · rw [State.reject_detached h]; exact (s.setPort_frame p _).keepsBooks
  · by_cases he : (s.port p).errors + 8 < 255
    · exact (State.reject_spec h he).frame.keepsBooks
    · rw [State.reject_detaches h (Nat.not_lt.mp he)]; exact (s.detach_spec p).keepsBooks

theorem State.acceptDetached_keepsBooks (s : State) (p : Port) (k : Byte) : KeepsBooks s (s.acceptDetached p k) := by
  simp only [State.acceptDetached]
  split
  · split
    · exact (s.rejoin_spec p).keepsBooks
    · exact (s.setPort_frame p _).keepsBooks
  · exact .refl s

theorem State.deliver_keepsBooks (s : State) (p : Port) (m : Msg) (good : Bool) : KeepsBooks s (s.deliver p m good) := by
  unfold State.deliver
  split
  · split
    · exact s.acceptDetached_keepsBooks p _
    · exact (s.accept_spec p).frame.keepsBooks.trans (State.handOn_books _ p _).keeps
  · split
    · exact (s.reject_keepsBooks p).trans (State.handOn_books _ p _).keeps
    · exact s.reject_keepsBooks p

theorem State.setRx_keepsBooks (s : State) (p : Port) (x : Receiver) : KeepsBooks s (s.setRx p x) :=
  (s.setRx_frame p x).keepsBooks

theorem State.faultHeader_keepsBooks (s : State) (p : Port) : KeepsBooks s (s.faultHeader p) :=
  (s.setRx_keepsBooks p _).trans (State.reject_keepsBooks _ p)

theorem State.completeMessage_keepsBooks (s : State) (p : Port) : KeepsBooks s (s.completeMessage p) := by
  unfold State.completeMessage
  split
  · split
    · exact (s.setRx_keepsBooks p _).trans (State.deliver_keepsBooks _ p _ _)
    · exact .refl s
  · exact .refl s

theorem State.settle_keepsBooks (s : State) (p : Port) : KeepsBooks s (s.settle p) := by
  unfold State.settle
  split
  · exact s.faultHeader_keepsBooks p
  · split
    · exact s.completeMessage_keepsBooks p
    · exact .refl s

theorem State.character_keepsBooks (s : State) (p : Port) (b : Byte) : KeepsBooks s (s.character p b) := by
  unfold State.character
  split
  · exact s.faultHeader_keepsBooks p
  · exact .refl s
  · exact s.setRx_keepsBooks p _
  · exact s.setRx_keepsBooks p _

theorem State.beginSending_keepsBooks (s : State) (p : Port) : KeepsBooks s (s.beginSending p) := by
  unfold State.beginSending
  split
  · split
    · exact ((s.setBoard_frame _ none).comp (State.setPort_frame _ _ _) (l := [.board, .ports]) (by simp) (by simp)).keepsBooks
    · exact (s.sendReply_books _).keeps
  · exact (s.sendReply_books _).keeps

theorem State.tick_books (s : State) : SameBooks s s.tick := by
  unfold State.tick
  split
  · exact .of rfl rfl rfl rfl rfl rfl rfl rfl rfl
  · exact .refl s

end Sys2Proof.Machine
end

section
/-!
PROOFS. Roster, bays and Tag Index through every step (R5, R6, R7).
-/
namespace Sys2Proof.Machine

/-! ### The S-port's messages -/

theorem siteLimitBody_keepsBooks (m : Msg) (s : State) : KeepsBooks s (siteLimitBody m s).1 := by
  unfold siteLimitBody
  split
  · rw [done_fst]
    refine KeepsBooks.trans ?_ (State.requestIfExceeded_keepsBooks _)
    refine KeepsBooks.trans ?_ (State.evalExceeded_frame _).keepsBooks
    exact .of_eq rfl rfl rfl rfl
  · exact .refl s

theorem loadReportBody_keepsBooks (m : Msg) (s : State) : KeepsBooks s (loadReportBody m s).1 := by
  unfold loadReportBody
  split
  · rw [done_fst]
    refine KeepsBooks.trans ?_ (State.requestIfExceeded_keepsBooks _)
    refine KeepsBooks.trans ?_ (State.evalLoadStale_frame _).keepsBooks
    refine KeepsBooks.trans ?_ (State.evalExceeded_frame _).keepsBooks
    exact .of_eq rfl rfl rfl rfl
  · exact .refl s

theorem State.requestMode_keepsBooks (s : State) (m : Mode) : KeepsBooks s (s.requestMode m) := by
  unfold State.requestMode
  split
  · exact .of_eq rfl rfl rfl rfl
  · exact (s.changeMode_spec m).keepsBooks

theorem modeRequestBody_keepsBooks (m : Msg) (s : State) : KeepsBooks s (modeRequestBody m s).1 := by
  unfold modeRequestBody
  split
  · split
    · exact .refl s
    · rw [done_fst]; exact s.requestMode_keepsBooks _
  · exact .refl s

theorem restartBody_keepsBooks (m : Msg) (s : State) : KeepsBooks s (restartBody m s).1 := s.restart_keepsBooks

theorem releaseCabinetBody_keepsBooks (m : Msg) (s : State) : KeepsBooks s (releaseCabinetBody m s).1 := by
  simp only [releaseCabinetBody]
  split
  · exact .refl s
  · split
    · exact .refl s
    · rw [done_fst]; exact KeepsBooks.foldl State.endSession_keepsBooks (baysOf _) s

theorem slotAssignBody_keepsBooks (m : Msg) (s : State) : KeepsBooks s (slotAssignBody m s).1 := by
  unfold slotAssignBody
  split
  · simp only
    split
    · split
      · exact State.setBay_keepsBooks rfl
      · exact .refl s
    · exact .refl s
  · exact .refl s

theorem pinSetupBody_keepsBooks (pins : Byte) (m : Msg) (s : State) : KeepsBooks s (pinSetupBody pins m s).1 := by
  unfold pinSetupBody
  split
  · split
    · exact s.setupPins_keepsBooks _ _ _
    · split
      · exact .of_eq rfl rfl rfl rfl
      · exact .refl s
  · exact .refl s

/-- The handling of an item keeps roster, bays and index where the rule of its kind does. -/
theorem State.handle_keepsBooks {s : State} {k : Kind} {p : Port} {body : Msg → State → State × Option Msg}
    (hb : ∀ m u, KeepsBooks u (body m u).1) : KeepsBooks s (s.handle k p body) :=
  State.handle_keeps (P := KeepsBooks s) (fun f h => h.trans f.books.keeps) (fun m _ h => h.trans (hb m _)) (.refl s)

/-! ### Every command -/

/-- A command whose event comes about under a condition, and changes nothing where it does not (log 3). -/
theorem KeepsBooks.ite {c : Prop} [Decidable c] {s t : State} (h : KeepsBooks s t) : KeepsBooks s (if c then t else s) := by
  split
  · exact h
  · exact .refl s

theorem exec_keepsBooks {c : Instr} {s t : State} (h : exec c s = .next t) : KeepsBooks s t := by
  by_cases hc : offBooks c = true
  · exact (exec_books hc h).keeps
  have inj : ∀ {u : State}, Host.Outcome.next (φ := Fault) (ρ := Refusal) u = .next t → KeepsBooks s u → KeepsBooks s t := by
    rintro u ⟨⟩ hu; exact hu
  cases c <;> simp only [offBooks, not_true_eq_false] at hc
  case messageComplete p => exact inj h (.ite (s.completeMessage_keepsBooks p))
  case headerFault p => exact inj h (.ite (s.faultHeader_keepsBooks p))
  case framingError p cause =>
    refine inj h (.ite ?_)
    simp only
    split
    · exact (s.settle_keepsBooks p).trans (State.faultHeader_keepsBooks _ p)
    · exact s.settle_keepsBooks p
  case idleGapElapsed p =>
    refine inj h (.ite ?_)
    simp only
    split
    · exact (s.settle_keepsBooks p).trans (State.setRx_keepsBooks _ p _)
    · exact s.settle_keepsBooks p
  case characterReceived p b => exact inj h (.ite ((s.settle_keepsBooks p).trans (State.character_keepsBooks _ p b)))
  case silenceTimerExpiry c => exact inj h (.ite (s.detach_spec (.c c)).keepsBooks)
  case endOfGap p => exact inj h (.ite (s.beginSending_keepsBooks p))
  case outlets p => exact inj h (State.handle_keepsBooks (onCabinet_keeps .refl outletsBody_keepsBooks))
  case plug p => exact inj h (State.handle_keepsBooks (onCabinet_keeps .refl plugBody_keepsBooks))
  case unplug p => exact inj h (State.handle_keepsBooks (onCabinet_keeps .refl unplugBody_keepsBooks))
  case meter p => exact inj h (State.handle_keepsBooks (onCabinet_keeps .refl meterBody_keepsBooks))
  case applied p => exact inj h (State.handle_keepsBooks (onCabinet_keeps .refl appliedBody_keepsBooks))
  case outletFault p => exact inj h (State.handle_keepsBooks (onCabinet_keeps .refl outletFaultBody_keepsBooks))
  case rosterPut p => exact inj h (State.handle_keepsBooks rosterPutBody_keepsBooks)
  case rosterDrop p => exact inj h (State.handle_keepsBooks rosterDropBody_keepsBooks)
  case clockSet p => exact inj h (State.handle_keepsBooks clockSetBody_keepsBooks)
  case tagWindow p => exact inj h (State.handle_keepsBooks tagWindowBody_keepsBooks)
  case siteLimit p => exact inj h (State.handle_keepsBooks siteLimitBody_keepsBooks)
  case loadReport p => exact inj h (State.handle_keepsBooks loadReportBody_keepsBooks)
  case modeRequest p => exact inj h (State.handle_keepsBooks modeRequestBody_keepsBooks)
  case restart p => exact inj h (State.handle_keepsBooks restartBody_keepsBooks)
  case releaseCabinet p => exact inj h (State.handle_keepsBooks releaseCabinetBody_keepsBooks)
  case slotAssign p => exact inj h (State.handle_keepsBooks slotAssignBody_keepsBooks)
  case pinSetup p pins => exact inj h (State.handle_keepsBooks (pinSetupBody_keepsBooks pins))
  case indexRebuildEnd =>
    refine inj h ?_
    split
    · exact .refl s
    · split
      · rename_i r hr; exact State.endRebuild_keepsBooks hr
      · exact .refl s
  case secondComplete =>
    refine inj h (.ite ?_)
    simp only
    split
    · exact .of_eq rfl rfl rfl rfl
    · refine KeepsBooks.trans ?_ (State.minuteTick_keepsBooks _)
      exact .of_eq rfl rfl rfl rfl
  case minuteEvent =>
    refine inj h (.ite ?_)
    split
    · refine KeepsBooks.trans ?_ (State.minuteTick_keepsBooks _)
      exact .of_eq rfl rfl rfl rfl
    · refine .ite (KeepsBooks.trans ?_ (State.minuteTick_keepsBooks _))
      exact .of_eq rfl rfl rfl rfl
  case minutePulse =>
    refine inj h (.ite (KeepsBooks.trans ?_ (State.minuteTick_keepsBooks _)))
    exact .of_eq rfl rfl rfl rfl
  case shedAssertion =>
    refine inj h (.ite (KeepsBooks.trans ?_ (State.assertShed_keepsBooks _)))
    exact .of_eq rfl rfl rfl rfl
  case shedRelease =>
    refine inj h (.ite (KeepsBooks.trans ?_ (State.releaseShed_books _).keeps))
    exact .of_eq rfl rfl rfl rfl
  case roundTimerExpiry => exact inj h (.ite s.roundStart_spec.keepsBooks)
  case passCompletion =>
    refine inj h ?_
    split
    · exact .refl s
    · split
      · exact s.completePass_keepsBooks _
      · exact .refl s
  case slot k =>
    refine inj h (.ite (KeepsBooks.trans ?_ (State.takeSlot_keepsBooks _ k)))
    exact .of_eq rfl rfl rfl rfl
  case resetAsserted =>
    refine inj h ?_
    split
    · exact .refl s
    · exact .of_disp (fun _ => rfl) (fun _ => rfl) rfl fun r hr => by cases hr
  case resetRelease cabs baud pins =>
    refine inj h (.ite ?_)
    refine (powerOn_keepsBooks s cabs baud pins).trans ?_
    exact .of_eq rfl rfl rfl rfl

theorem step_keepsBooks {s t : State} (h : step s = .next t) : KeepsBooks s t := by
  unfold step at h
  split at h
  · rename_i c rest _
    have takes : KeepsBooks s { s with pending := rest } := .of_eq rfl rfl rfl rfl
    exact takes.trans (exec_keepsBooks h)
  · cases h; exact s.tick_books.keeps

/-- Settles O57: every operation keeps both agreements, so every command and every step does. -/
theorem keepsTheRoster : Obligations.KeepsTheRoster :=
  ⟨fun _ _ hR h => (step_keepsBooks h).roster hR, fun _ _ hI hE h => (step_keepsBooks h).index hI hE⟩

end Sys2Proof.Machine
end

section
/-!
SUPPORT. What keeps a bay record in the ranges and combinations of R1 and R2, with its published setpoint within Plim (R93).
-/
namespace Sys2Proof.Machine

/-! ### Bay records -/

/-- A bay record in its ranges and combinations, the bound of R93 left aside: what a change of Pveh, Pcap or setpoint leaves
until the vehicle-limit publication. -/
structure Bay.InRange (x : Bay) : Prop where
  pcap : x.pcap ≤ maxPower
  published : x.published ≤ maxPower
  confirmed : x.confirmed ≤ maxPower
  unconfirmed : x.unconfirmed ≤ 255
  unfitted : x.occ = .unfitted → x.pcap = 0
  outside : x.session = none → x.published = 0 ∧ x.confirmed = 0 ∧ x.seq = 0 ∧ x.unconfirmed = 0
  session : ∀ y, x.session = some y → y.Ok

theorem Bay.Ok.inRange {x : Bay} (h : x.Ok) : x.InRange :=
  ⟨h.pcap, h.published, h.confirmed, h.unconfirmed, h.unfitted, h.outside, fun y hy => (h.session y hy).1⟩

theorem Bay.InRange.ok {x : Bay} (h : x.InRange) (hp : x.inSession = true → x.published ≤ x.plim) : x.Ok :=
  ⟨h.pcap, h.published, h.confirmed, h.unconfirmed, h.unfitted, h.outside,
    fun y hy => ⟨h.session y hy, hp (Bay.inSession_iff.mpr ⟨y, hy⟩)⟩⟩

theorem Bay.inSession_false {x : Bay} : x.inSession = false ↔ x.session = none := by
  simp [Bay.inSession]

theorem Bay.session_none_iff {x y : Bay} (h : x.inSession = y.inSession) : x.session = none ↔ y.session = none := by
  rw [← Bay.inSession_false, ← Bay.inSession_false, h]

theorem Bay.plim_le_pcap (x : Bay) : x.plim ≤ x.pcap := by
  unfold Bay.plim
  cases x.session with
  | none => exact Nat.zero_le _
  | some y => exact min_le_right _ _

/-- The published setpoint of a bay in its ranges is 0 out of session (R1), and within Plim in session (R93). -/
theorem Bay.Ok.published_le {x : Bay} (h : x.Ok) : x.published ≤ x.plim := by
  cases hs : x.session with
  | none => rw [(h.outside hs).1]; exact Nat.zero_le _
  | some y => exact (h.session y hs).2

/-- A bay above 0.0 kW is in session (R1). -/
theorem Bay.Ok.inSession_of_pos {x : Bay} (h : x.Ok) {n : Nat} (hp : n < x.published) : x.inSession = true := by
  cases hs : x.session with
  | none => rw [(h.outside hs).1] at hp; exact absurd hp (Nat.not_lt_zero n)
  | some y => exact Bay.inSession_iff.mpr ⟨y, hs⟩

/-- A publication within Plim at a bay in session. -/
theorem Bay.InRange.publish {x : Bay} (h : x.InRange) {v : Nat} {q : Seq} (hs : x.inSession = true) (hv : v ≤ x.plim) :
    Bay.Ok { x with published := v, seq := q } := by
  obtain ⟨y, hy⟩ := Bay.inSession_iff.mp hs
  refine Bay.InRange.ok ⟨h.pcap, (hv.trans x.plim_le_pcap).trans h.pcap, h.confirmed, h.unconfirmed, h.unfitted,
    fun hn => ?_, h.session⟩ fun _ => hv
  rw [show Bay.session { x with published := v, seq := q } = x.session from rfl, hy] at hn
  cases hn

/-- A record that differs from one in its ranges in slot, reachability and resync flag alone. -/
theorem Bay.Ok.relinked {x : Bay} (h : x.Ok) (k : Fin 4) (r z : Bool) :
    Bay.Ok { x with slot := k, reachable := r, resync := z } :=
  ⟨h.pcap, h.published, h.confirmed, h.unconfirmed, h.unfitted, h.outside, h.session⟩

/-- The published setpoint confirmed (R90). -/
theorem Bay.Ok.confirm {x : Bay} (h : x.Ok) : Bay.Ok { x with confirmed := x.published, unconfirmed := 0 } :=
  ⟨h.pcap, h.published, h.published, Nat.zero_le _, h.unfitted, fun hn =>
    let ⟨h1, _, h3, _⟩ := h.outside hn; ⟨h1, h1, h3, rfl⟩, h.session⟩

/-- A session in its ranges takes the place of another of the same Pveh. -/
theorem Bay.Ok.setSession {x : Bay} {y z : Session} (h : x.Ok) (hy : x.session = some y) (hz : z.Ok) (hp : z.pveh = y.pveh) :
    Bay.Ok { x with occ := .session z } := by
  obtain ⟨-, hle⟩ := h.session y hy
  refine Bay.InRange.ok ⟨h.pcap, h.published, h.confirmed, h.unconfirmed, fun hu => absurd hu (by simp),
    fun hn => (by cases hn), fun w hw => (by cases hw; exact hz)⟩ fun _ => ?_
  have e : x.plim = min y.pveh x.pcap := by simp only [Bay.plim, hy]
  rw [e, ← hp] at hle
  exact hle

/-- The bay record at session end (R23). -/
theorem Bay.InRange.ended {x : Bay} (h : x.InRange) :
    Bay.Ok { x with occ := .vacant, published := 0, seq := 0, confirmed := 0, unconfirmed := 0 } :=
  ⟨h.pcap, Nat.zero_le _, Nat.zero_le _, Nat.zero_le _, fun hu => (by cases hu), fun _ => ⟨rfl, rfl, rfl, rfl⟩,
    fun y hy => (by cases hy)⟩

/-- An UNFITTED bay record (R4, R25). -/
theorem Bay.unfitted_ok {x : Bay} (ho : x.occ = .unfitted) (hp : x.pcap = 0)
    (h : x.published = 0 ∧ x.confirmed = 0 ∧ x.seq = 0 ∧ x.unconfirmed = 0) : x.Ok := by
  obtain ⟨h1, h2, h3, h4⟩ := h
  have hn : x.session = none := by simp only [Bay.session, ho]
  refine ⟨?_, ?_, ?_, ?_, fun _ => hp, fun _ => ⟨h1, h2, h3, h4⟩, fun y hy => by rw [hn] at hy; cases hy⟩ <;> omega

theorem Bay.powerOn_ok (k : Fin 4) : (Bay.powerOn k).Ok := Bay.unfitted_ok rfl rfl ⟨rfl, rfl, rfl, rfl⟩

/-! ### Sessions -/

theorem Disposition.startPhase_ok {d : Disposition} {t : Tag} {pveh : Nat} (hp : pveh ≤ maxPower) :
    Session.Ok { phase := d.startPhase, disp := d, tag := t, pveh := pveh, delivered := 0, power := 0, last := none } := by
  refine ⟨hp, Nat.zero_le _, Nat.zero_le _, ?_, ?_, ?_⟩ <;> cases d <;> simp [Disposition.startPhase]

theorem Bay.Ok.started {x : Bay} (h : x.Ok) (d : Disposition) (t : Tag) {pveh : Nat} (hp : pveh ≤ maxPower) :
    (x.started d t pveh).Ok :=
  Bay.InRange.ok ⟨h.pcap, Nat.zero_le _, Nat.zero_le _, Nat.zero_le _, fun hu => (by cases hu), fun hn => (by cases hn),
    fun y hy => (by cases hy; exact Disposition.startPhase_ok hp)⟩ fun _ => Nat.zero_le _

/-- A session denied its claim (R13, R15). -/
theorem Session.Ok.deny {x : Session} (h : x.Ok) {d : Disposition} (hd : d = .refused ∨ d = .duplicate) : (x.deny d).Ok := by
  refine ⟨h.pveh, h.power, h.delivered, ?_, ?_, fun _ => hd⟩ <;>
    (simp only [Session.deny]; split <;> simp)

/-- A session linked to a slot (R15). -/
theorem Session.Ok.grantSlot {x : Session} (h : x.Ok) (k : Fin 64) : (x.grantSlot k).Ok := by
  refine ⟨h.pveh, h.power, h.delivered, fun _ => .inl ⟨k, rfl⟩, fun _ => ⟨k, rfl⟩, ?_⟩
  simp only [Session.grantSlot]
  split <;> simp

theorem Session.Ok.fault {x : Session} (h : x.Ok) (code : Byte) : Session.Ok { x with phase := .fault code } :=
  ⟨h.pveh, h.power, h.delivered, by simp, by simp, by simp⟩

/-- A ROSTERED bay between ACTIVE and SATISFIED (R21). -/
theorem Session.Ok.rostered {x : Session} (h : x.Ok) {k : Fin 64} (hd : x.disp = .rostered k) {ph : Phase}
    (hp : ph = .active ∨ ph = .satisfied) : Session.Ok { x with phase := ph } := by
  refine ⟨h.pveh, h.power, h.delivered, fun _ => .inl ⟨k, hd⟩, fun _ => ⟨k, hd⟩, fun hb => ?_⟩
  have hb : ph = .barred := hb
  rcases hp with e | e <;> rw [e] at hb <;> cases hb

theorem targetOf_rostered {s : State} {d : Disposition} {n : Nat} (h : s.targetOf d = some n) : ∃ k, d = .rostered k := by
  cases d with
  | rostered k => exact ⟨k, rfl⟩
  | courtesy | refused | duplicate => cases h

/-- The SATISFIED check of a METER keeps a session in its combinations (R2, R21). -/
theorem Session.Ok.reached {s : State} {x : Session} (h : x.Ok) :
    Session.Ok { x with phase := if x.phase = .active ∧ (s.targetOf x.disp).any (fun n => n ≤ x.delivered) = true
      then .satisfied else x.phase } := by
  split
  · rename_i hr
    obtain ⟨n, hn, -⟩ := (Option.any_eq_true _ _).mp hr.2
    obtain ⟨k, hd⟩ := targetOf_rostered hn
    exact h.rostered hd (.inr rfl)
  · exact h

/-- The check of a round start keeps a session in its combinations (R2, R21). -/
theorem Session.Ok.roundPhase {s : State} {x : Session} (h : x.Ok) : Session.Ok { x with phase := s.roundPhase x } := by
  cases ht : s.targetOf x.disp with
  | none => rw [show s.roundPhase x = x.phase by simp only [State.roundPhase, ht]]; exact h
  | some n =>
    obtain ⟨k, hd⟩ := targetOf_rostered ht
    simp only [State.roundPhase, ht]
    split
    · exact h.rostered hd (.inr rfl)
    · split
      · exact h.rostered hd (.inl rfl)
      · exact h

theorem field16_le (hi lo : Byte) : field16 hi lo ≤ 65535 := by
  have := hi.isLt; have := lo.isLt
  unfold field16; omega

theorem Session.Ok.metered {x : Session} (h : x.Ok) {f : MeterFields} (hf : f.delivered ≤ 65535) : (x.metered f).Ok :=
  ⟨min_le_left _ _, min_le_left _ _, max_le h.delivered hf, h.active, h.satisfied, h.barred⟩

end Sys2Proof.Machine
end

section
/-!
SUPPORT. Bay records and the pass in flight through every operation (R1, R2, R56, R67, R79, R85, R93).
-/
namespace Sys2Proof.Machine

/-- Bay records and pass are as `BaysOk` and `PassOk` say. -/
structure State.Sound (s : State) : Prop where
  bays : s.BaysOk
  pass : s.PassOk

/-! ### How soundness is carried -/

/-- A state whose bays are in range, whose closed bays have nothing on the board and nothing pending, and which has no pass, the
pending increases and the order of a sound one. -/
theorem State.Sound.of {s t : State} (h : s.Sound) (hbay : ∀ b, (t.bay b).Ok)
    (hout : ∀ b, (t.bay b).session = none → t.board b = none ∧ t.pendingInc b = none)
    (hsnap : t.alloc.snap = none ∨ t.alloc.snap = s.alloc.snap)
    (hin : t.alloc.snap.isSome = true → ∀ b, t.marked b = false →
      s.marked b = false ∧ ((s.bay b).inSession = true → (t.bay b).inSession = true))
    (hinc : ∀ b, t.pendingInc b = none ∨ t.pendingInc b = s.pendingInc b) (ho : t.alloc.order = s.alloc.order) : t.Sound where
  bays := ⟨hbay, hout⟩
  pass := by
    refine ⟨fun sn hsn b hb hm => ?_, fun hs b => ?_, ho ▸ h.pass.once, fun b hb => ?_⟩
    · rcases hsnap with e | e
      · rw [e] at hsn; cases hsn
      · obtain ⟨hm', hb'⟩ := hin (by rw [hsn]; rfl) b hm
        exact hb' (h.pass.session sn (by rw [← e]; exact hsn) b hb hm')
    · rcases hsnap with e | e
      · rw [e] at hs; cases hs
      · rcases hinc b with e' | e'
        · exact e'
        · rw [e']; exact h.pass.fresh (by rw [← e]; exact hs) b
    · rcases hinc b with e | e
      · rw [e] at hb; cases hb
      · rw [ho]; exact h.pass.listed b (by rw [← e]; exact hb)

/-- An operation that opens and closes no session, and writes bays and board at most among what the pass is read from. -/
theorem State.Sound.of_frame {l : List Block} {s t : State} (h : s.Sound) (f : SameBut l s t)
    (hbay : ∀ b, (t.bay b).Ok ∧ (t.bay b).inSession = (s.bay b).inSession)
    (hboard : ∀ b, (s.bay b).session = none → t.board b = none)
    (hp : .pass ∉ l := by decide) (hm : .marks ∉ l := by decide) (hi : .increases ∉ l := by decide)
    (ho : .order ∉ l := by decide) : t.Sound :=
  h.of (fun b => (hbay b).1)
    (fun b hn => by
      have hn := (Bay.session_none_iff (hbay b).2).mp hn
      exact ⟨hboard b hn, by rw [f.increaseAt hi]; exact (h.bays.outside b hn).2⟩)
    (.inr (f .pass hp)) (fun _ b hb => ⟨by rw [← f.markAt hm]; exact hb, fun x => by rw [(hbay b).2]; exact x⟩)
    (fun b => .inr (f.increaseAt hi b)) (f .order ho)

theorem SameBooks.sound {s t : State} (f : SameBooks s t) (h : s.Sound) : t.Sound :=
  h.of (fun b => by rw [f.bay]; exact h.bays.bay b)
    (fun b hn => by rw [f.board, f.pendingInc]; exact h.bays.outside b (by rw [← f.bay]; exact hn)) (.inr f.snap)
    (fun _ b hb => ⟨by rw [← f.marked]; exact hb, fun x => by rw [f.bay]; exact x⟩) (fun b => .inr (f.pendingInc b)) f.order

/-- The same of a frame that holds none of the bays, the board, the pass, the marks, the order and the increases. -/
theorem SameBut.sound {l : List Block} {s t : State} (f : SameBut l s t) (h : s.Sound) (hb : .bays ∉ l := by decide)
    (hd : .board ∉ l := by decide) (hp : .pass ∉ l := by decide) (hm : .marks ∉ l := by decide)
    (hi : .increases ∉ l := by decide) (ho : .order ∉ l := by decide) : t.Sound :=
  h.of_frame f (fun b => by rw [f.bay hb]; exact ⟨h.bays.bay b, rfl⟩)
    (fun b hn => by rw [f.boardAt hd]; exact (h.bays.outside b hn).1) hp hm hi ho

/-- What leaves bays, board, pass, marks, order and increases as they are. -/
theorem State.Sound.of_eq {s t : State} (h : s.Sound) (hb : t.bays = s.bays) (hd : t.pub.board = s.pub.board)
    (hp : t.alloc.snap = s.alloc.snap) (hm : t.alloc.marks = s.alloc.marks) (hi : t.pub.pending = s.pub.pending)
    (ho : t.alloc.order = s.alloc.order) : t.Sound := by
  have bay : ∀ b, t.bay b = s.bay b := fun b => by simp only [State.bay, hb]
  have inc : ∀ b, t.pendingInc b = s.pendingInc b := fun b => by simp only [State.pendingInc, hi]
  exact h.of (fun b => by rw [bay]; exact h.bays.bay b)
    (fun b hn => ⟨by simp only [State.board, hd]; exact (h.bays.outside b (by rw [← bay]; exact hn)).1, by
      rw [inc]; exact (h.bays.outside b (by rw [← bay]; exact hn)).2⟩) (.inr hp)
    (fun _ b hm' => ⟨by simpa only [State.marked, hm] using hm', fun x => by rw [bay]; exact x⟩) (fun b => .inr (inc b)) ho

/-- One bay record written, in its ranges, and in session exactly if it was. -/
theorem State.Sound.setBay {s : State} (h : s.Sound) {b : Fin 32} {x : Bay} (hx : x.Ok)
    (hs : x.inSession = (s.bay b).inSession) : (s.setBay b x).Sound :=
  h.of_frame (s.setBay_frame b x)
    (fun a => by
      rw [State.bay_setBay]
      split
      · rename_i e; rw [e]; exact ⟨hx, hs⟩
      · exact ⟨h.bays.bay a, rfl⟩)
    fun a hn => (h.bays.outside a hn).1

/-- The session of a bay in session replaced by one in its ranges, of the same Pveh. -/
theorem State.Sound.setSession {s : State} (h : s.Sound) {b : Fin 32} {y z : Session} (hy : (s.bay b).session = some y)
    (hz : z.Ok) (hp : z.pveh = y.pveh) : (s.setBay b { s.bay b with occ := .session z }).Sound :=
  h.setBay ((h.bays.bay b).setSession hy hz hp) (by
    rw [Bay.inSession_iff.mpr ⟨y, hy⟩]; rfl)

theorem State.Sound.session_ok {s : State} (h : s.Sound) {b : Fin 32} {y : Session} (hy : (s.bay b).session = some y) : y.Ok :=
  ((h.bays.bay b).session y hy).1

/-! ### Publications (R88, R90, R91, R93) -/

/-- All is sound but the bound of R93 at bay `b`, which is in its ranges. -/
structure State.SoundBut (s : State) (b : Fin 32) : Prop where
  bay : (s.bay b).InRange
  bays : ∀ a, a ≠ b → (s.bay a).Ok
  outside : ∀ a, (s.bay a).session = none → s.board a = none ∧ s.pendingInc a = none
  pass : s.PassOk

theorem State.Sound.soundBut {s : State} (h : s.Sound) (b : Fin 32) : s.SoundBut b :=
  ⟨(h.bays.bay b).inRange, fun a _ => h.bays.bay a, h.bays.outside, h.pass⟩

/-- Where R93 holds at bay `b` after all. -/
theorem State.SoundBut.sound {s : State} {b : Fin 32} (h : s.SoundBut b)
    (hp : (s.bay b).inSession = true → (s.bay b).published ≤ (s.bay b).plim) : s.Sound := by
  refine ⟨⟨fun a => ?_, h.outside⟩, h.pass⟩
  by_cases e : a = b
  · rw [e]; exact h.bay.ok hp
  · exact h.bays a e

/-- A pass reads of a bay only whether it is in session. -/
theorem State.PassOk.of_frame {l : List Block} {s t : State} (h : s.PassOk) (f : SameBut l s t)
    (hs : ∀ b, (t.bay b).inSession = (s.bay b).inSession) (hp : .pass ∉ l := by decide) (hm : .marks ∉ l := by decide)
    (hi : .increases ∉ l := by decide) (ho : .order ∉ l := by decide) : t.PassOk := by
  have hsnap : t.alloc.snap = s.alloc.snap := f .pass hp
  have horder : t.alloc.order = s.alloc.order := f .order ho
  refine ⟨fun sn hsn b hb hb' => ?_, fun hn b => ?_, horder ▸ h.once, fun b hb => ?_⟩
  · rw [hs]; exact h.session sn (hsnap ▸ hsn) b hb (by rw [← f.markAt hm]; exact hb')
  · rw [f.increaseAt hi]; exact h.fresh (hsnap ▸ hn) b
  · rw [horder]; exact h.listed b (by rw [← f.increaseAt hi]; exact hb)

/-- One bay record written, in its ranges, and in session exactly if it was. -/
theorem State.Sound.setBay_but {s : State} (h : s.Sound) {b : Fin 32} {x : Bay} (hx : x.InRange)
    (hs : x.inSession = (s.bay b).inSession) : (s.setBay b x).SoundBut b := by
  have sess : ∀ a, ((s.setBay b x).bay a).inSession = (s.bay a).inSession := fun a => by
    rw [State.bay_setBay]
    split
    · rename_i e; rw [e, hs]
    · rfl
  exact ⟨by rw [State.bay_setBay, if_pos rfl]; exact hx, fun a e => by rw [State.bay_setBay, if_neg e]; exact h.bays.bay a,
    fun a hn => h.bays.outside a ((Bay.session_none_iff (sess a)).mp hn), h.pass.of_frame (s.setBay_frame b x) sess⟩

/-- A publication within Plim at a bay in session, whatever its setpoint before. -/
theorem Publishes.sound {s t : State} {b : Fin 32} {v : Nat} (p : Publishes s t b v) (h : s.SoundBut b)
    (hs : (s.bay b).inSession = true) (hv : v ≤ (s.bay b).plim) : t.Sound := by
  have sess : ∀ a, (t.bay a).inSession = (s.bay a).inSession := fun a => by
    by_cases e : a = b
    · rw [e, p.bay]; rfl
    · rw [p.bays a e]
  refine ⟨⟨fun a => ?_, fun a hn => ?_⟩, h.pass.of_frame p.frame sess⟩
  · by_cases e : a = b
    · rw [e, p.bay]; exact h.bay.publish hs hv
    · rw [p.bays a e]; exact h.bays a e
  · have hn := (Bay.session_none_iff (sess a)).mp hn
    have e : a ≠ b := fun e => by rw [← e, Bay.inSession_iff] at hs; obtain ⟨y, hy⟩ := hs; rw [hn] at hy; cases hy
    rw [p.boards a e, p.frame.increaseAt (by simp)]
    exact h.outside a hn

theorem State.publish_sound {s : State} (h : s.Sound) {b : Fin 32} {v : Nat} (hs : (s.bay b).inSession = true)
    (hv : v ≤ (s.bay b).plim) : (s.publish b v).Sound := by
  by_cases hr : (s.bay b).reachable = true
  · exact (State.publish_spec v hr).sound (h.soundBut b) hs hv
  · rw [State.publish_unreachable v (by simpa using hr)]; exact h

theorem cutTo_le (pmin plim : Nat) : cutTo pmin plim ≤ plim := by
  unfold cutTo
  split <;> omega

/-- The vehicle-limit publication brings a reachable bay back within Plim (R93). -/
theorem State.limitVehicle_sound {s : State} {b : Fin 32} (h : s.SoundBut b) (hr : (s.bay b).reachable = true) :
    (s.limitVehicle b).Sound := by
  have spec := State.limitVehicle_spec hr
  split at spec
  · rename_i hc
    exact spec.sound h hc.1 (cutTo_le _ _)
  · rename_i hc
    rw [spec]
    exact h.sound fun hs => Nat.not_lt.mp fun hlt => hc ⟨hs, hlt⟩

theorem State.limitVehicle_keeps {s : State} {b : Fin 32} (hr : (s.bay b).reachable = true) :
    ((s.limitVehicle b).bay b).inSession = (s.bay b).inSession ∧ ((s.limitVehicle b).bay b).reachable = true := by
  have spec := State.limitVehicle_spec hr
  split at spec
  · rw [spec.bay]; exact ⟨rfl, hr⟩
  · rw [spec]; exact ⟨rfl, hr⟩

theorem State.confirm_sound {s : State} (h : s.Sound) (b : Fin 32) (q : Byte) : (s.confirm b q).Sound := by
  by_cases hc : (s.bay b).inSession = true ∧ q.toNat = (s.bay b).seq.toNat
  · have c := State.confirm_spec hc.1 hc.2
    refine h.of_frame c.frame (fun a => ?_) fun a hn => by rw [c.frame.boardAt (by simp)]; exact (h.bays.outside a hn).1
    by_cases e : a = b
    · rw [e, c.bay]; exact ⟨(h.bays.bay b).confirm, rfl⟩
    · rw [c.bays a e]; exact ⟨h.bays.bay a, rfl⟩
  · rw [State.confirm_ignored hc]; exact h

/-- A resync METER leaves the bay within Plim: the applied value is cut, and what is brought back lies below it (R91). -/
theorem State.resync_sound {s : State} (h : s.Sound) {b : Fin 32} (hs : (s.bay b).inSession = true)
    (hr : (s.bay b).reachable = true) (v : Nat) (q : Byte) : (s.resync b v q).Sound := by
  have d := s.adopt_spec b v q
  have sess : ∀ a, ((s.adopt b v q).bay a).inSession = (s.bay a).inSession := fun a => by
    by_cases e : a = b
    · rw [e, d.bay]; rfl
    · rw [d.bays a e]
  have adopted : (s.adopt b v q).SoundBut b := by
    obtain ⟨y, hy⟩ := Bay.inSession_iff.mp hs
    have hb := h.bays.bay b
    refine ⟨?_, fun a e => by rw [d.bays a e]; exact h.bays.bay a, fun a hn => ?_, h.pass.of_frame d.frame sess⟩
    · rw [d.bay]
      refine ⟨hb.pcap, min_le_left _ _, min_le_left _ _, Nat.zero_le _, hb.unfitted, fun hn => ?_, hb.inRange.session⟩
      have hn : (s.bay b).session = none := hn
      rw [hy] at hn; cases hn
    · have hn := (Bay.session_none_iff (sess a)).mp hn
      have e : a ≠ b := fun e => by rw [e, hy] at hn; cases hn
      rw [d.boards a e, d.frame.increaseAt (by simp)]
      exact h.bays.outside a hn
  have hr' : ((s.adopt b v q).bay b).reachable = true := by rw [d.bay]; exact hr
  have cut := State.limitVehicle_sound adopted hr'
  unfold State.resync State.restore
  split
  · rename_i hc
    have hb := cut.bays.bay b
    exact State.publish_sound cut (hb.inSession_of_pos hc.2) (hc.2.le.trans hb.published_le)
  · exact cut

/-! ### METER, OUTLET FAULT, OUTLETS (R4, R20, R22) -/

theorem State.satisfy_sound {s : State} (h : s.Sound) (b : Fin 32) : (s.satisfy b).Sound := by
  cases hs : (s.bay b).session with
  | none => simp only [State.satisfy, hs]; exact h
  | some x =>
    obtain ⟨hb, ho, -, -, hf⟩ := State.satisfy_spec hs
    refine h.of_frame hf (fun a => ?_) fun a hn => by rw [hf.boardAt (by simp)]; exact (h.bays.outside a hn).1
    by_cases e : a = b
    · rw [e, hb]
      exact ⟨(h.bays.bay b).setSession hs (h.session_ok hs).reached rfl, (Bay.inSession_iff.mpr ⟨x, hs⟩).symm⟩
    · rw [ho a e]; exact ⟨h.bays.bay a, rfl⟩

theorem meterFields_delivered {l : List Byte} {f : MeterFields} (h : meterFields l = some f) : f.delivered ≤ 65535 := by
  unfold meterFields at h
  split at h
  · cases h; exact field16_le _ _
  · cases h

theorem State.meter_sound {s : State} (h : s.Sound) {b : Fin 32} {x : Session} {f : MeterFields}
    (hx : (s.bay b).session = some x) (hr : (s.bay b).reachable = true) (hf : f.delivered ≤ 65535) :
    (s.meter b x f).Sound := by
  have hb := h.bays.bay b
  have hin : (s.bay b).inSession = true := Bay.inSession_iff.mpr ⟨x, hx⟩
  set t := s.setBay b { s.bay b with occ := .session (x.metered f) } with ht
  have tb : t.bay b = { s.bay b with occ := .session (x.metered f) } := by rw [ht, State.bay_setBay, if_pos rfl]
  have taken : t.SoundBut b := h.setBay_but
    ⟨hb.pcap, hb.published, hb.confirmed, hb.unconfirmed, fun hu => (by cases hu), fun hn => (by cases hn),
      fun y hy => (by cases hy; exact (h.session_ok hx).metered hf)⟩ hin.symm
  have hr' : (t.bay b).reachable = true := by rw [tb]; exact hr
  have cut := State.limitVehicle_sound taken hr'
  obtain ⟨hs2, hr2⟩ := State.limitVehicle_keeps hr'
  refine State.satisfy_sound ?_ b
  unfold State.takeApplied
  split
  · exact State.resync_sound cut (by rw [hs2, tb]; rfl) hr2 _ _
  · exact State.confirm_sound cut b _

theorem State.faultOutlet_sound {s : State} (h : s.Sound) {b : Fin 32} {x : Session} (hx : (s.bay b).session = some x)
    (code : Byte) : (s.faultOutlet b x code).Sound := by
  have stored := h.setSession hx ((h.session_ok hx).fault code) rfl
  simp only [State.faultOutlet]
  refine (State.raiseS_frame _ _).sound ?_
  split
  · exact stored
  · exact State.publish_sound stored (by rw [State.bay_setBay, if_pos rfl]; rfl) (Nat.zero_le _)

/-- A session end (R23) marks its bay for the pass in flight and leaves nothing on the board and nothing pending. -/
theorem State.endSession_sound {s : State} (h : s.Sound) (b : Fin 32) : (s.endSession b).Sound := by
  cases hs : (s.bay b).session with
  | none => rw [State.endSession_none hs]; exact h
  | some x =>
    have E := State.endSession_spec hs
    have hsnap : (s.endSession b).alloc.snap = s.alloc.snap := E.frame .pass (by simp)
    refine h.of (fun a => ?_) (fun a hn => ?_) (.inr hsnap) (fun hp a hm => ?_) (fun a => ?_) (E.frame .order (by simp))
    · by_cases e : a = b
      · rw [e, E.bay]; exact (h.bays.bay b).inRange.ended
      · rw [E.bays a e]; exact h.bays.bay a
    · by_cases e : a = b
      · rw [e]; exact ⟨E.board.1, E.increase.1⟩
      · rw [E.board.2 a e, E.increase.2 a e]; exact h.bays.outside a (by rw [← E.bays a e]; exact hn)
    · rw [E.marks, ← hsnap, hp] at hm
      simp only [Bool.true_and, Bool.or_eq_false_iff, beq_eq_false_iff_ne] at hm
      exact ⟨hm.1, fun x => by rw [E.bays a hm.2]; exact x⟩
    · by_cases e : a = b
      · rw [e]; exact .inl E.increase.1
      · exact .inr (E.increase.2 a e)

theorem State.mark_sound {s : State} (h : s.Sound) (b : Fin 32) : (s.mark b).Sound := by
  have f := s.mark_frame b
  refine h.of (fun a => by rw [f.bay (by simp)]; exact h.bays.bay a)
    (fun a hn => ?_) (.inr (f .pass (by simp))) (fun _ a hm => ⟨?_, fun x => by rw [f.bay (by simp)]; exact x⟩)
    (fun a => .inr (f.increaseAt (by simp) a)) (f .order (by simp))
  · rw [f.boardAt (by simp), f.increaseAt (by simp)]; exact h.bays.outside a (by rw [← f.bay (by simp)]; exact hn)
  · rw [State.marked_mark, Bool.or_eq_false_iff] at hm; exact hm.1

theorem State.unfitOutlet_sound {s : State} (h : s.Sound) (b : Fin 32) : (s.unfitOutlet b).Sound := by
  unfold State.unfitOutlet
  split
  · exact h
  · have ended := State.endSession_sound h b
    have closed := s.endSession_closes b
    refine State.mark_sound ?_ b
    refine ended.setBay ?_ (Bay.inSession_false.mpr closed).symm
    exact Bay.unfitted_ok rfl rfl ((ended.bays.bay b).outside closed)

theorem State.fitOutlet_sound {s : State} (h : s.Sound) {b : Fin 32} (hr : (s.bay b).reachable = true) {cap : Nat}
    (hc : cap ≤ maxPower) : (s.fitOutlet b cap).Sound := by
  have hb := h.bays.bay b
  simp only [State.fitOutlet]
  split
  · rename_i hu
    have hn : (s.bay b).session = none := by simp only [Bay.session, hu]
    refine State.mark_sound ?_ b
    refine h.setBay ?_ (Bay.inSession_false.mpr hn).symm
    exact ⟨hc, hb.published, hb.confirmed, hb.unconfirmed, fun x => (by cases x), fun _ => hb.outside hn,
      fun y hy => (by cases hy)⟩
  · rename_i hu
    refine State.limitVehicle_sound (h.setBay_but ⟨hc, hb.published, hb.confirmed, hb.unconfirmed,
      fun x => absurd x hu, hb.outside, hb.inRange.session⟩ rfl) ?_
    rw [State.bay_setBay, if_pos rfl]; exact hr

theorem listedCap_le {l : List (Byte × Nat)} {o : Fin 8} {cap : Nat} (h : listedCap l o = some cap) : cap ≤ maxPower := by
  unfold listedCap at h
  obtain ⟨r, -, rfl⟩ := Option.map_eq_some_iff.mp h
  exact min_le_left _ _

/-- An outlet list leaves every bay of its cabinet reachable, and all of it sound (R4). -/
theorem State.applyOutlets_sound {s : State} (h : s.Sound) {c : Fin 4}
    (hr : ∀ b, cabinetOf b = c → (s.bay b).reachable = true) (l : List (Byte × Nat)) : (s.applyOutlets c l).Sound := by
  have key : ∀ (os : List (Fin 8)), os.Nodup → ∀ t, t = os.foldl (fun t o =>
      match listedCap l o with
      | some cap => t.fitOutlet (bayAt c o) cap
      | none => t.unfitOutlet (bayAt c o)) s → t.Sound ∧ ∀ o, o ∉ os → t.bay (bayAt c o) = s.bay (bayAt c o) := by
    intro os hos t ht
    rw [ht]
    refine foldl_prefix (P := fun os (t : State) => t.Sound ∧ ∀ o, o ∉ os → t.bay (bayAt c o) = s.bay (bayAt c o))
      ⟨h, fun _ _ => rfl⟩ ?_ os hos
    rintro os o t ho ⟨hS, hb⟩
    have hr' : (t.bay (bayAt c o)).reachable = true := by rw [hb o ho]; exact hr _ (bay_cab c o)
    have D := outletDone_spec t (bayAt c o) (listedCap l o) hr'
    refine ⟨?_, fun o' ho' => ?_⟩
    · cases hc : listedCap l o with
      | some cap => exact State.fitOutlet_sound hS hr' (listedCap_le hc)
      | none => exact State.unfitOutlet_sound hS _
    · have hne : o' ≠ o := fun e => ho' (by simp [e])
      have hs := (D.others (bayAt c o') fun e => hne (bayAt_inj c _ _ e)).1
      exact hs.trans (hb o' fun hm => ho' (by simp [hm]))
  exact (key allOutlets (List.nodup_finRange 8) _ rfl).1

end Sys2Proof.Machine
end

section
/-!
SUPPORT. Bay records and the pass in flight through session starts, roster edits, links, rounds, modes, slots and pass
completion.
-/
namespace Sys2Proof.Machine

/-! ### Session start and roster edits (R13, R15, R18) -/

theorem SessionStarts.sound {s t : State} {b : Fin 32} {tag : Tag} {pveh : Nat} {d : Disposition}
    (S : SessionStarts s t b tag pveh d) (h : s.Sound) (hp : pveh ≤ maxPower) : t.Sound := by
  have f := S.frame
  refine h.of (fun a => ?_) (fun a hn => ?_) (.inr (f .pass (by simp))) (fun _ a hm => ?_)
    (fun a => .inr (f.increaseAt (by simp) a)) (f .order (by simp))
  · by_cases e : a = b
    · rw [e, S.bay]; exact (h.bays.bay b).started d tag hp
    · rw [S.bays a e]; exact h.bays.bay a
  · have e : a ≠ b := fun e => by rw [e, S.bay] at hn; cases hn
    rw [f.boardAt (by simp), f.increaseAt (by simp)]
    exact h.bays.outside a (by rw [← S.bays a e]; exact hn)
  · rw [S.marks, Bool.or_eq_false_iff] at hm
    refine ⟨hm.1, fun x => ?_⟩
    by_cases e : a = b
    · rw [e, S.bay]; rfl
    · rw [S.bays a e]; exact x

theorem State.onSession_sound {s : State} (h : s.Sound) (b : Fin 32) {f : Session → Session}
    (hf : ∀ x : Session, x.Ok → (f x).Ok ∧ (f x).pveh = x.pveh) : (s.onSession b f).Sound := by
  cases hs : (s.bay b).session with
  | none => rw [State.onSession_none f hs]; exact h
  | some x =>
    obtain ⟨ho, hp⟩ := hf x (h.session_ok hs)
    rw [State.onSession_some f hs]
    exact h.setSession hs ho hp

theorem deny_walk_sound {d : Disposition} (hd : d = .refused ∨ d = .duplicate) :
    ∀ (l : List (Fin 32)) {s : State}, s.Sound → (l.foldl (fun t b => t.onSession b (·.deny d)) s).Sound
  | [], _, h => h
  | b :: l, _, h => deny_walk_sound hd l (State.onSession_sound h b fun _ hx => ⟨hx.deny hd, rfl⟩)

theorem State.setEntry_sound {s : State} (h : s.Sound) (k : Fin 64) (x : Option Entry) : (s.setEntry k x).Sound :=
  (s.setEntry_frame k x).sound h

theorem State.linkBays_sound {s : State} (h : s.Sound) (k : Fin 64) (e : Entry) (l : List (Fin 32)) :
    (s.linkBays k e l).Sound := by
  cases l with
  | nil => exact h
  | cons b rest =>
    have linked := State.setEntry_sound (State.onSession_sound h b (f := (·.grantSlot k)) fun _ hx => ⟨hx.grantSlot k, rfl⟩) k
      (some { e with state := .plugged b false })
    have walked := deny_walk_sound (.inr rfl) rest linked
    simp only [State.linkBays]
    split
    · exact walked
    · exact (State.raiseD_frame _ _).sound walked

theorem State.relink_sound {s : State} (h : s.Sound) (k : Fin 64) : (s.relink k).Sound := by
  unfold State.relink
  split
  · exact h
  · split
    · simp only
      split
      · exact deny_walk_sound (.inl rfl) _ h
      · exact State.linkBays_sound h k _ _
    · exact h

theorem State.updateEntry_sound {s : State} (h : s.Sound) (k : Fin 64) (e : Entry) (f : PutFields) :
    (s.updateEntry k e f).Sound := by
  have put := State.setEntry_sound h k (some (e.put f))
  have leaves : ∀ (u : State) (n : Nat), u.Sound → (u.leavePlugged k n).Sound := fun u n hu => by
    unfold State.leavePlugged
    split
    · exact (State.evalOverdue_frame _).sound (State.setEntry_sound hu k _)
    · exact hu
  simp only [State.updateEntry]
  split
  · split
    · exact State.onSession_sound (leaves _ _ put) _ fun _ hx => ⟨hx.deny (.inl rfl), rfl⟩
    · exact put
  · exact put

/-! ### Links (R100 to R122) -/

theorem Detaches.sound {s t : State} {p : Port} {rx : Receiver} (d : Detaches s t p rx) (h : s.Sound) : t.Sound := by
  have sess : ∀ b, (t.bay b).inSession = (s.bay b).inSession := fun b => by rw [d.bays]; split <;> rfl
  refine h.of (fun b => ?_) (fun b hn => ?_) (.inr (d.frame .pass (by simp)))
    (fun _ b hm => ⟨by rw [← d.frame.markAt (by simp)]; exact hm, fun x => by rw [sess]; exact x⟩) (fun b => ?_)
    (d.frame .order (by simp))
  · rw [d.bays]
    split
    · exact (h.bays.bay b).relinked _ _ _
    · exact h.bays.bay b
  · obtain ⟨h1, h2⟩ := h.bays.outside b ((Bay.session_none_iff (sess b)).mp hn)
    rw [d.board, d.increases, h1, h2]
    simp
  · rw [d.increases]
    split
    · exact .inl rfl
    · exact .inr rfl

theorem Rejoins.sound {s t : State} {p : Port} {rx : Receiver} (d : Rejoins s t p rx) (h : s.Sound) : t.Sound :=
  h.of_frame d.frame
    (fun b => by
      rw [d.bays]
      split
      · exact ⟨(h.bays.bay b).relinked _ _ _, rfl⟩
      · exact ⟨h.bays.bay b, rfl⟩)
    fun b hn => by rw [d.frame.boardAt (by simp)]; exact (h.bays.outside b hn).1

theorem State.reject_sound {s : State} (h : s.Sound) (p : Port) : (s.reject p).Sound := by
  by_cases hd : (s.port p).health = .detached
  · rw [State.reject_detached hd]; exact (s.setPort_frame p _).sound h
  · by_cases he : (s.port p).errors + 8 < 255
    · exact (State.reject_spec hd he).frame.sound h
    · rw [State.reject_detaches hd (Nat.not_lt.mp he)]; exact (s.detach_spec p).sound h

theorem State.deliver_sound {s : State} (h : s.Sound) (p : Port) (m : Msg) (good : Bool) : (s.deliver p m good).Sound := by
  unfold State.deliver
  split
  · split
    · simp only [State.acceptDetached]
      split
      · split
        · exact (s.rejoin_spec p).sound h
        · exact (s.setPort_frame p _).sound h
      · exact h
    · exact (State.handOn_books _ p _).sound ((s.accept_spec p).frame.sound h)
  · split
    · exact (State.handOn_books _ p _).sound (State.reject_sound h p)
    · exact State.reject_sound h p

theorem State.setRx_sound {s : State} (h : s.Sound) (p : Port) (x : Receiver) : (s.setRx p x).Sound :=
  (s.setRx_frame p x).sound h

theorem State.faultHeader_sound {s : State} (h : s.Sound) (p : Port) : (s.faultHeader p).Sound :=
  State.reject_sound (State.setRx_sound h p _) p

theorem State.completeMessage_sound {s : State} (h : s.Sound) (p : Port) : (s.completeMessage p).Sound := by
  unfold State.completeMessage
  split
  · split
    · exact State.deliver_sound (State.setRx_sound h p _) p _ _
    · exact h
  · exact h

theorem State.settle_sound {s : State} (h : s.Sound) (p : Port) : (s.settle p).Sound := by
  unfold State.settle
  split
  · exact State.faultHeader_sound h p
  · split
    · exact State.completeMessage_sound h p
    · exact h

theorem State.character_sound {s : State} (h : s.Sound) (p : Port) (b : Byte) : (s.character p b).Sound := by
  unfold State.character
  split
  · exact State.faultHeader_sound h p
  · exact h
  · exact State.setRx_sound h p _
  · exact State.setRx_sound h p _

theorem State.setBoard_none_sound {s : State} (h : s.Sound) (b : Fin 32) : (s.setBoard b none).Sound :=
  h.of_frame (s.setBoard_frame b none) (fun a => ⟨h.bays.bay a, rfl⟩) fun a hn => by
    rw [State.board_setBoard, (h.bays.outside a hn).1, ite_self]

theorem State.beginSending_sound {s : State} (h : s.Sound) (p : Port) : (s.beginSending p).Sound := by
  unfold State.beginSending
  split
  · split
    · exact (State.setPort_frame _ _ _).sound (State.setBoard_none_sound h _)
    · exact (s.sendReply_books _).sound h
  · exact (s.sendReply_books _).sound h

/-! ### Rounds (R79, R80, R92, R95) -/

/-- The unconfirmed round count of a round start (R80). -/
theorem Bay.Ok.countUnconfirmed {x : Bay} (h : x.Ok) : x.countUnconfirmed.Ok := by
  refine ⟨h.pcap, h.published, h.confirmed, ?_, h.unfitted, fun hn => ?_, h.session⟩
  · simp only [Bay.countUnconfirmed]; split <;> omega
  · obtain ⟨h1, h2, h3, -⟩ := h.outside hn
    exact ⟨h1, h2, h3, by simp [Bay.countUnconfirmed, h1, h2]⟩

/-- The SATISFIED check of a round start (R21). -/
theorem Bay.Ok.checked {s : State} {x : Bay} (h : x.Ok) : (s.checked x).Ok := by
  cases ho : x.occ with
  | session y =>
    have hy := Bay.session_eq_some.mpr ho
    rw [show s.checked x = { x with occ := .session { y with phase := s.roundPhase y } } by simp only [State.checked, ho]]
    exact h.setSession hy (h.session y hy).1.roundPhase rfl
  | unfitted | vacant =>
    rw [show s.checked x = x by cases x; simp only at ho; simp only [State.checked, ho]]; exact h

theorem RoundStarts.bay_eq {s t : State} (r : RoundStarts s t) (b : Fin 32) :
    t.bay b = s.checked (s.bay b).countUnconfirmed := by
  rw [r.bays]
  unfold State.checked Bay.countUnconfirmed
  cases (s.bay b).occ <;> rfl

/-- A round start takes the bays as they then stand into the snapshot, and drops every increase. -/
theorem RoundStarts.sound {s t : State} (r : RoundStarts s t) (h : s.Sound) : t.Sound := by
  have sess : ∀ b, (t.bay b).inSession = (s.bay b).inSession := fun b => by
    rw [r.bays]
    unfold Bay.inSession Bay.session
    cases (s.bay b).occ <;> rfl
  obtain ⟨sn, hsn, -, -, -, -, hat⟩ := r.snapshot
  refine ⟨⟨fun b => ?_, fun b hn => ⟨?_, r.increases b⟩⟩, ⟨fun sn' hs b hb _ => ?_, fun _ b => r.increases b, ?_, fun b hb => ?_⟩⟩
  · rw [r.bay_eq]; exact (h.bays.bay b).countUnconfirmed.checked
  · rw [r.frame.boardAt (by simp)]
    exact (h.bays.outside b ((Bay.session_none_iff (sess b)).mp hn)).1
  · rw [hsn] at hs; cases hs; rw [← (hat b).1]; exact hb
  · rw [r.frame .order (by simp)]; exact h.pass.once
  · rw [r.increases] at hb; cases hb

theorem EarlyRound.sound {s t : State} (r : EarlyRound s t) (h : s.Sound) : t.Sound := by
  unfold EarlyRound at r
  split at r
  · rw [r]; exact h
  · split at r
    · rw [r]; exact h.of_eq rfl rfl rfl rfl rfl rfl
    · exact r.sound h

theorem State.requestIfExceeded_sound {s : State} (h : s.Sound) : s.requestIfExceeded.Sound := by
  unfold State.requestIfExceeded
  split
  · exact s.requestEarly_spec.sound h
  · exact h

theorem halved_le (pmin n : Nat) : halved pmin n ≤ n := by
  unfold halved
  split <;> omega

/-- The shed halving (R92) lowers setpoints above 0.0 kW alone. -/
theorem State.halveAll_sound {s : State} (h : s.Sound) : s.halveAll.Sound := by
  have W := s.halveAll_spec
  refine h.of_frame W.frame (fun b => ?_) fun b hn => ?_
  · rw [W.bay, if_pos (mem_allBays b)]
    split
    · rename_i hc
      have hb := h.bays.bay b
      exact ⟨hb.inRange.publish (hb.inSession_of_pos hc.2) ((halved_le _ _).trans hb.published_le), rfl⟩
    · exact ⟨h.bays.bay b, rfl⟩
  · rw [W.board, if_pos (mem_allBays b)]
    split
    · rename_i hc
      have := ((h.bays.bay b).outside hn).1
      omega
    · exact (h.bays.outside b hn).1

theorem State.assertShed_sound {s : State} (h : s.Sound) : s.assertShed.Sound := by
  unfold State.assertShed
  simp only
  refine EarlyRound.sound (State.requestEarly_spec _) ((State.evalExceeded_frame _).sound ((State.evalShed_frame _).sound ?_))
  have sets : State.Sound { s with env := { s.env with shed := true } } := h.of_eq rfl rfl rfl rfl rfl rfl
  split
  · exact sets
  · exact State.halveAll_sound sets

theorem State.setupPins_sound {s : State} (h : s.Sound) (fn dir pins : Byte) : (s.setupPins fn dir pins).Sound := by
  unfold State.setupPins
  simp only
  generalize hu' : (if fn.getLsbD 1 = s.pins.fn.getLsbD 1 then _ else _ : State) = u
  have hu : u.Sound := by
    rw [← hu']
    split <;> exact h.of_eq rfl rfl rfl rfl rfl rfl
  split
  · exact hu
  · split
    · split
      · exact hu
      · exact State.assertShed_sound hu
    · split
      · exact u.releaseShed_books.sound hu
      · exact hu

/-! ### Modes (R157 to R160) -/

theorem EntersConfigure.sound {s t : State} (c : EntersConfigure s t) (h : s.Sound) : t.Sound := by
  have sess : ∀ b, (t.bay b).inSession = (s.bay b).inSession := fun b => by rw [c.bays]; rfl
  obtain ⟨-, -, horder, -, hinc⟩ := c.round
  have hsnap : t.alloc.snap = s.alloc.snap := c.frame .pass (by simp)
  have written : ∀ b, (0 < (s.bay b).published ∧ (t.bay b).published = 0) ∨
      ((t.bay b).published = (s.bay b).published ∧ (t.bay b).seq = (s.bay b).seq ∧ t.board b = s.board b) := fun b => by
    by_cases hc : ((s.bay b).reachable = true ∨ (s.port (.c (cabinetOf b))).health = .detached) ∧ 0 < (s.bay b).published
    · exact .inl ⟨hc.2, (c.zero b hc.1 hc.2).1⟩
    · exact .inr (c.kept b hc)
  refine ⟨⟨fun b => ?_, fun b hn => ⟨?_, hinc b⟩⟩, ⟨fun sn hsn b hb hm => ?_, fun _ b => hinc b, ?_, fun b hb => ?_⟩⟩
  · have hb := h.bays.bay b
    rw [c.bays]
    refine Bay.Ok.relinked (x := { s.bay b with published := (t.bay b).published, seq := (t.bay b).seq }) ?_ (s.bay b).slot _ _
    rcases written b with ⟨hp, h0⟩ | ⟨h1, h2, -⟩
    · rw [h0]; exact hb.inRange.publish (hb.inSession_of_pos hp) (Nat.zero_le _)
    · rw [h1, h2]; exact hb
  · have hn := (Bay.session_none_iff (sess b)).mp hn
    rcases written b with ⟨hp, -⟩ | ⟨-, -, h3⟩
    · rw [((h.bays.bay b).outside hn).1] at hp; cases hp
    · rw [h3]; exact (h.bays.outside b hn).1
  · rw [sess]; exact h.pass.session sn (hsnap ▸ hsn) b hb (by rw [← c.frame.markAt (by simp)]; exact hm)
  · rw [horder]; exact List.nodup_nil
  · rw [hinc] at hb; cases hb

theorem State.dropIncreases_sound {s : State} (h : s.Sound) : s.dropIncreases.Sound :=
  h.of h.bays.bay (fun b hn => ⟨(h.bays.outside b hn).1, s.pendingInc_dropIncreases b⟩) (.inr rfl) (fun _ _ hm => ⟨hm, id⟩)
    (fun b => .inl (s.pendingInc_dropIncreases b)) rfl

theorem ModeTakesEffect.sound {s t : State} {m : Mode} (c : ModeTakesEffect s t m) (h : s.Sound) : t.Sound := by
  unfold ModeTakesEffect at c
  split at c
  · rw [c]; exact h.of_eq rfl rfl rfl rfl rfl rfl
  · split at c
    · exact c.sound h
    · split at c
      · obtain ⟨u, hu, hr⟩ := c
        refine hr.sound ?_
        exact State.Sound.of_eq (hu.frame.sound h) rfl rfl rfl rfl rfl rfl
      · obtain ⟨u, hu, ht⟩ := c
        have hu := hu.frame.sound h
        rw [ht]
        split
        · exact (State.dropIncreases_sound hu).of_eq rfl rfl rfl rfl rfl rfl
        · exact hu.of_eq rfl rfl rfl rfl rfl rfl

/-! ### Slots (R86, R87) -/

/-- What the walk of a slot keeps, also while the increases of a pass that ends are noted: the bays, and an order that names
every pending increase once. -/
structure State.SlotSound (s : State) : Prop where
  bays : s.BaysOk
  once : s.alloc.order.Nodup
  listed : ∀ b, (s.pendingInc b).isSome = true → b ∈ s.alloc.order

theorem State.SlotSound.sound {s : State} (h : s.SlotSound) (hs : s.alloc.snap = none) : s.Sound :=
  ⟨h.bays, fun sn hsn => (by rw [hs] at hsn; cases hsn), fun hn => (by rw [hs] at hn; cases hn), h.once, h.listed⟩

theorem State.Sound.slotSound {s : State} (h : s.Sound) : s.SlotSound := ⟨h.bays, h.pass.once, h.pass.listed⟩

/-- An increase stays within Plim (R86, R87). -/
theorem State.increaseOf_le (s : State) (b : Fin 32) (target : Nat) (hp : (s.bay b).published ≤ (s.bay b).plim) :
    (s.bay b).published + (s.increaseOf b target).toNat ≤ (s.bay b).plim := by
  have hi : s.increaseOf b target ≤ (s.increaseTarget b target : Int) - (s.bay b).published := by
    simp only [State.increaseOf]
    split
    · exact min_le_left _ _
    · exact (min_le_left _ _).trans (min_le_left _ _)
  have ht : s.increaseTarget b target ≤ (s.bay b).plim := by
    simp only [State.increaseTarget]
    split
    · exact (min_le_left _ _).trans (min_le_right _ _)
    · exact min_le_right _ _
  omega

/-- A slot's evaluation of one bay (R86, R87) keeps every bay in its ranges. -/
theorem State.evaluateAt_slotSound {s : State} (h : s.SlotSound) (k : Fin 4) (b : Fin 32) :
    (State.evaluateAt k s b).SlotSound ∧ (State.evaluateAt k s b).alloc = s.alloc := by
  have drops : ∀ u : State, u.SlotSound → (u.setPendingInc b none).SlotSound := fun u hu => by
    refine ⟨⟨hu.bays.bay, fun a hn => ⟨(hu.bays.outside a hn).1, ?_⟩⟩, hu.once, fun a ha => ?_⟩
    · rw [State.pendingInc_setPendingInc, (hu.bays.outside a hn).2, ite_self]
    · rw [State.pendingInc_setPendingInc] at ha
      split at ha
      · cases ha
      · exact hu.listed a ha
  unfold State.evaluateAt
  split
  · exact ⟨h, rfl⟩
  · rename_i target _
    split
    · obtain ⟨taken, passed⟩ := State.increase_spec (s := s) (b := b) (target := target)
      by_cases hc : s.mayIncrease b = true ∧ 0 < s.increaseOf b target ∧
          s.settings.pminInForce ≤ (s.bay b).published + (s.increaseOf b target).toNat
      · obtain ⟨u, p, e⟩ := taken hc
        rw [e]
        obtain ⟨-, -, -, -, y, hy, -⟩ := (s.mayIncrease_iff b).mp hc.1
        have hb := h.bays.bay b
        have halloc : u.alloc = s.alloc := by
          have h1 := p.frame .timer (by simp); have h2 := p.frame .pass (by simp)
          have h3 := p.frame .marks (by simp); have h4 := p.frame .order (by simp); have h5 := p.frame .early (by simp)
          simp only [Block.same] at h1 h2 h3 h4 h5
          cases hu : u.alloc; cases hs : s.alloc
          simp only [hu, hs] at h1 h2 h3 h4 h5
          simp only [h1, h2, h3, h4, h5]
        refine ⟨drops _ ⟨⟨fun a => ?_, fun a hn => ?_⟩, ?_, fun a ha => ?_⟩, halloc⟩
        · change (u.bay a).Ok
          by_cases ea : a = b
          · rw [ea, p.bay]
            exact hb.inRange.publish (Bay.inSession_iff.mpr ⟨y, hy⟩) (s.increaseOf_le b target hb.published_le)
          · rw [p.bays a ea]; exact h.bays.bay a
        · change u.board a = none ∧ u.pendingInc a = none
          have hn : (u.bay a).session = none := hn
          have ea : a ≠ b := fun ea => by
            rw [ea, p.bay] at hn
            have hn : (s.bay b).session = none := hn
            rw [hy] at hn; cases hn
          rw [p.boards a ea, p.frame.increaseAt (by simp)]
          exact h.bays.outside a (by rw [← p.bays a ea]; exact hn)
        · change u.alloc.order.Nodup
          rw [halloc]; exact h.once
        · change a ∈ u.alloc.order
          rw [halloc]; exact h.listed a (by rw [← p.frame.increaseAt (by simp)]; exact ha)
      · rw [passed hc]; exact ⟨drops s h, rfl⟩
    · exact ⟨h, rfl⟩

theorem State.takeSlot_slotSound {s : State} (h : s.SlotSound) (k : Fin 4) :
    (s.takeSlot k).SlotSound ∧ (s.takeSlot k).alloc = s.alloc := by
  have walk : ∀ (l : List (Fin 32)) {u : State}, u.SlotSound →
      (l.foldl (State.evaluateAt k) u).SlotSound ∧ (l.foldl (State.evaluateAt k) u).alloc = u.alloc := by
    intro l
    induction l with
    | nil => intro u hu; exact ⟨hu, rfl⟩
    | cons b l ih =>
      intro u hu
      obtain ⟨h1, h2⟩ := State.evaluateAt_slotSound hu k b
      obtain ⟨h3, h4⟩ := ih h1
      exact ⟨h3, h4.trans h2⟩
  have opened : State.SlotSound { s with pub := { s.pub with used := 0 } } := ⟨⟨h.bays.bay, h.bays.outside⟩, h.once, h.listed⟩
  exact walk _ opened

/-! ### Pass completion (R72, R82, R84, R85) -/

theorem Snapshot.eligible_inSession {sn : Snapshot} {b : Fin 32} (h : sn.eligible b = true) : (sn.at b).bay.inSession = true := by
  unfold Snapshot.eligible at h
  cases hs : (sn.at b).bay.session with
  | none => simp [hs] at h
  | some y => exact Bay.inSession_iff.mpr ⟨y, hs⟩

/-- The service order names the eligible bays (R67). -/
theorem Snapshot.mem_order {sn : Snapshot} {b : Fin 32} (h : sn.eligible b = true) : b ∈ sn.order := by
  by_cases hr : (sn.at b).isRostered = true
  · simp [Snapshot.order, Snapshot.rosteredPart, h, hr]
  · simp [Snapshot.order, Snapshot.courtesyPart, h, hr]

/-- The service order names no bay twice (R67). -/
theorem Snapshot.order_nodup (sn : Snapshot) : sn.order.Nodup := by
  unfold Snapshot.order
  refine List.nodup_append.mpr ⟨?_, allBays_nodup.filter _, ?_⟩
  · exact (List.perm_insertionSort _ _).nodup_iff.mpr (allBays_nodup.filter _)
  · rintro a ha b hb rfl
    simp only [Snapshot.rosteredPart, List.mem_insertionSort, List.mem_filter, Bool.and_eq_true] at ha
    simp only [Snapshot.courtesyPart, List.mem_filter, Bool.and_eq_true, Bool.not_eq_true'] at hb
    rw [ha.2.2] at hb
    exact absurd hb.2.2 (by simp)

theorem State.writeResults_sound {s : State} (h : s.Sound) (sn : Snapshot) (shares : List (Fin 32 × Nat)) :
    (s.writeResults sn shares).Sound := by
  refine h.of_frame (s.mapBays_frame _) (fun b => ?_) fun b hn => ?_
  · rw [State.writeResults, State.bay_mapBays]
    split
    · rename_i y r ho _
      have hy := Bay.session_eq_some.mpr ho
      split
      · exact ⟨h.bays.bay b, rfl⟩
      · refine ⟨(h.bays.bay b).setSession hy ?_ rfl, (Bay.inSession_iff.mpr ⟨y, hy⟩).symm⟩
        have ok := h.session_ok hy
        exact ⟨ok.pveh, ok.power, ok.delivered, ok.active, ok.satisfied, ok.barred⟩
    · exact ⟨h.bays.bay b, rfl⟩
  · rw [State.writeResults, State.mapBays_board]; exact (h.bays.outside b hn).1

theorem State.decrease_frame (sn : Snapshot) (shares : List (Fin 32 × Nat)) (s : State) (b : Fin 32) :
    SameBut [.bays, .board, .ports, .sset] s (State.decrease sn shares s b) := by
  simp only [State.decrease]
  split
  · by_cases hr : (s.bay b).reachable = true
    · exact (State.publish_spec _ hr).frame
    · rw [State.publish_unreachable _ (by simpa using hr)]; exact SameBut.refl _ s
  · exact SameBut.refl _ s

theorem State.decrease_sound {s : State} (h : s.Sound) (sn : Snapshot) (shares : List (Fin 32 × Nat)) (b : Fin 32) :
    (State.decrease sn shares s b).Sound := by
  simp only [State.decrease]
  split
  · rename_i hc
    have hb := h.bays.bay b
    exact State.publish_sound h (hb.inSession_of_pos hc.2.2) (hc.2.2.le.trans hb.published_le)
  · exact h

/-- The order a completed pass leaves names every increase it notes, each at a bay in session (R56, R67, R85). -/
theorem State.noteIncreases_slotSound {s : State} (h : s.Sound) {sn : Snapshot} (hs : s.alloc.snap = some sn)
    (ho : s.alloc.order = sn.order.filter fun b => !s.marked b) (shares : List (Fin 32 × Nat)) :
    (s.noteIncreases sn shares).SlotSound := by
  have f := s.noteIncreases_frame sn shares
  have order : (s.noteIncreases sn shares).alloc.order = s.alloc.order := f .order (by simp)
  have none_before : ∀ b, s.pendingInc b = none := h.pass.fresh (by rw [hs]; rfl)
  have noted : ∀ b, (s.noteIncreases sn shares).pendingInc b = none ∨ (s.marked b = false ∧ sn.eligible b = true) := fun b => by
    rw [State.pendingInc_noteIncreases]
    unfold State.notedIncrease
    split
    · rename_i hc; exact .inr ⟨hc.1, hc.2.1⟩
    · exact .inl (none_before b)
  refine ⟨⟨fun b => by rw [f.bay (by simp)]; exact h.bays.bay b, fun b hn => ?_⟩, order ▸ h.pass.once, fun b hb => ?_⟩
  · rw [f.bay (by simp)] at hn
    refine ⟨by rw [f.boardAt (by simp)]; exact (h.bays.outside b hn).1, ?_⟩
    rcases noted b with e | ⟨hm, he⟩
    · exact e
    · have := h.pass.session sn hs b (Snapshot.eligible_inSession he) hm
      rw [Bay.inSession_false.mpr hn] at this; cases this
  · rcases noted b with e | ⟨hm, he⟩
    · rw [e] at hb; cases hb
    · rw [order, ho]; exact List.mem_filter.mpr ⟨Snapshot.mem_order he, by rw [hm]; rfl⟩

theorem State.endPass_sound {s : State} (h : s.SlotSound) : s.endPass.Sound :=
  State.SlotSound.sound ⟨⟨h.bays.bay, h.bays.outside⟩, h.once, h.listed⟩ rfl

theorem State.finishPass_sound {s : State} (h : s.Sound) {sn : Snapshot} (hs : s.alloc.snap = some sn) :
    (s.finishPass sn).Sound := by
  have written := State.writeResults_sound h sn sn.shares
  have fw : SameBut [.bays] s (s.writeResults sn sn.shares) := s.mapBays_frame _
  generalize hu : s.writeResults sn sn.shares = u at *
  have usnap : u.alloc.snap = some sn := (fw .pass (by simp)).trans hs
  set v := (u.replaceOrder sn).evalAtRisk with hv
  have ordered : v.Sound := by
    refine ⟨⟨written.bays.bay, written.bays.outside⟩, written.pass.session, written.pass.fresh, ?_, fun b hb => ?_⟩
    · exact sn.order_nodup.filter _
    · have none_before : u.pendingInc b = none := written.pass.fresh (by rw [usnap]; rfl) b
      rw [show v.pendingInc b = u.pendingInc b from rfl, none_before] at hb; cases hb
  have lowered : ∀ (l : List (Fin 32)) {w : State}, w.Sound → (l.foldl (State.decrease sn sn.shares) w).Sound ∧
      SameBut [.bays, .board, .ports, .sset] w (l.foldl (State.decrease sn sn.shares) w) := by
    intro l
    induction l with
    | nil => intro w hw; exact ⟨hw, SameBut.refl _ w⟩
    | cons b l ih =>
      intro w hw
      obtain ⟨h1, h2⟩ := ih (State.decrease_sound hw sn sn.shares b)
      exact ⟨h1, (State.decrease_frame sn sn.shares w b).trans h2⟩
  obtain ⟨low, fl⟩ := lowered allBays ordered
  have horder : (allBays.foldl (State.decrease sn sn.shares) v).alloc.order =
      sn.order.filter fun b => !(allBays.foldl (State.decrease sn sn.shares) v).marked b := by
    simp only [fl.markAt (by simp)]
    exact fl .order (by simp)
  unfold State.finishPass
  simp only [hu, ← hv]
  apply State.endPass_sound
  split
  · refine (State.takeSlot_slotSound (State.noteIncreases_slotSound low ((fl .pass (by simp)).trans usnap) ?_ _) 0).1
    exact horder
  · exact low.slotSound

theorem State.completePass_sound {s : State} (h : s.Sound) {sn : Snapshot} (hs : s.alloc.snap = some sn) :
    (s.completePass sn).Sound := by
  have modes : ∀ u : State, u.Sound → u.takePendingMode.Sound := fun u hu => by
    unfold State.takePendingMode
    split
    · exact (u.changeMode_spec _).sound hu
    · exact hu
  have requests : ∀ u : State, u.Sound → u.takeHeldRequest.Sound := fun u hu => by
    have cleared : State.Sound { u with alloc := { u.alloc with early := false } } := hu.of_eq rfl rfl rfl rfl rfl rfl
    unfold State.takeHeldRequest
    split
    · simp only
      split
      · exact cleared
      · exact (State.roundStart_spec _).sound cleared
    · exact hu
  exact requests _ (modes _ (State.finishPass_sound h hs))

end Sys2Proof.Machine
end

section
/-!
PROOFS. Bay records and the pass in flight through every step (R1, R2, R56, R93).
-/
namespace Sys2Proof.Machine

/-! ### Restart and reset (R26, R161, R163) -/

/-- A state with every bay UNFITTED, no pass, nothing pending, nothing on the board and no order. -/
theorem State.Sound.of_empty {s : State} (hb : ∀ b, (s.bay b).Ok) (hi : ∀ b, s.pendingInc b = none)
    (hd : ∀ b, s.board b = none) (hs : s.alloc.snap = none) (ho : s.alloc.order = []) : s.Sound :=
  State.SlotSound.sound ⟨⟨hb, fun b _ => ⟨hd b, hi b⟩⟩, by rw [ho]; exact List.nodup_nil,
    fun b hp => (by rw [hi] at hp; cases hp)⟩ hs

theorem State.restart_sound (s : State) : s.restart.Sound := by
  refine s.restartBlocks.handConditions_frame.sound (State.Sound.of_empty (fun b => ?_) (fun b => ?_) (fun b => ?_) rfl rfl)
  · rw [s.restartBlocks_bay]; exact Bay.powerOn_ok _
  · simp [State.restartBlocks, State.pendingInc]
  · simp [State.restartBlocks, State.board]

theorem powerOn_sound (cabs baud : BitVec 2) (pins : Byte) : (State.powerOn cabs baud pins).Sound := by
  refine State.Sound.of_empty (fun b => ?_) (fun b => ?_) (fun b => ?_) rfl rfl
  · rw [powerOn_bay]; exact Bay.powerOn_ok _
  · simp [State.powerOn, State.pendingInc]
  · simp [State.powerOn, State.board]

theorem State.assertReset_sound {s : State} (h : s.Sound) : s.assertReset.Sound := by
  have hi : ∀ b, s.assertReset.pendingInc b = none := fun b => by simp [State.assertReset, State.pendingInc]
  exact State.SlotSound.sound ⟨⟨h.bays.bay, fun b hn => ⟨(h.bays.outside b hn).1, hi b⟩⟩, h.pass.once,
    fun b hp => (by rw [hi] at hp; cases hp)⟩ rfl

/-! ### The rules of the kinds -/

/-- A cabinet port that offers an item is not DETACHED, so its bays are reachable (R104, R118, R119). -/
theorem State.offered_reachable {s : State} (hL : s.LinksOk) (hR : s.ReachOk) {c : Fin 4} {x : Item}
    (h : s.offered (.c c) = some x) (b : Fin 32) (hb : cabinetOf b = c) : (s.bay b).reachable = true := by
  rw [hR.reachable b, hb]
  intro hd
  have empty := ((hL.port (.c c)).silent hd).1
  unfold State.offered at h
  split at h
  · cases h
  · split at h
    · rw [empty] at h; cases h
    · cases h

theorem outletsBody_sound {c : Fin 4} {m : Msg} {s : State} (h : s.Sound)
    (hr : ∀ b, cabinetOf b = c → (s.bay b).reachable = true) : (outletsBody c m s).1.Sound := by
  simp only [outletsBody]
  split
  · exact State.applyOutlets_sound h hr _
  · exact h

theorem plugBody_sound {c : Fin 4} {m : Msg} {s : State} (h : s.Sound) : (plugBody c m s).1.Sound := by
  unfold plugBody
  split
  · simp only
    split
    · exact h
    · exact (State.startSession_spec _ _ _ _).sound (State.endSession_sound h _) (min_le_left _ _)
  · exact h

theorem unplugBody_sound {c : Fin 4} {m : Msg} {s : State} (h : s.Sound) : (unplugBody c m s).1.Sound := by
  simp only [unplugBody]
  split
  · exact h
  · exact h
  · exact State.endSession_sound h _

theorem meterBody_sound {c : Fin 4} {m : Msg} {s : State} (h : s.Sound)
    (hr : ∀ b, cabinetOf b = c → (s.bay b).reachable = true) : (meterBody c m s).1.Sound := by
  simp only [meterBody]
  split
  · rename_i f x hf hx
    simp only
    split
    · exact State.meter_sound h hx (hr _ (bay_cab c _)) (meterFields_delivered hf)
    · exact State.endSession_sound h _
  · exact h

theorem appliedBody_sound {c : Fin 4} {m : Msg} {s : State} (h : s.Sound) : (appliedBody c m s).1.Sound := by
  unfold appliedBody
  split
  · exact State.confirm_sound h _ _
  · exact h

theorem outletFaultBody_sound {c : Fin 4} {m : Msg} {s : State} (h : s.Sound) : (outletFaultBody c m s).1.Sound := by
  unfold outletFaultBody
  split
  · simp only
    split
    · exact h
    · exact h
    · rename_i x hx
      exact State.faultOutlet_sound h (Bay.session_eq_some.mpr hx) _
  · exact h

theorem rosterPutBody_sound {m : Msg} {s : State} (h : s.Sound) : (rosterPutBody m s).1.Sound := by
  unfold rosterPutBody
  split
  · exact h
  · split
    · split
      · exact State.relink_sound (State.updateEntry_sound h _ _ _) _
      · exact h
    · split
      · exact h
      · split
        · exact h
        · exact State.relink_sound ((State.setIndex_frame _ _ _).sound (State.setEntry_sound h _ _)) _

theorem rosterDropBody_sound {m : Msg} {s : State} (h : s.Sound) : (rosterDropBody m s).1.Sound := by
  unfold rosterDropBody
  split
  · simp only
    split
    · exact h
    · split
      · exact h
      · split
        · exact h
        · exact (State.setIndex_frame _ _ _).sound (State.setEntry_sound h _ _)
  · exact h

theorem State.evaluateDepartures_sound {s : State} (h : s.Sound) : s.evaluateDepartures.Sound :=
  s.evaluateDepartures_spec.2.2.sound h

theorem State.minuteTick_sound {s : State} (h : s.Sound) : s.minuteTick.Sound :=
  State.evaluateDepartures_sound (h.of_eq rfl rfl rfl rfl rfl rfl)

theorem clockSetBody_sound {m : Msg} {s : State} (h : s.Sound) : (clockSetBody m s).1.Sound := by
  unfold clockSetBody
  split
  · rw [done_fst]; exact State.evaluateDepartures_sound (h.of_eq rfl rfl rfl rfl rfl rfl)
  · exact h

theorem tagWindowBody_sound {m : Msg} {s : State} (h : s.Sound) : (tagWindowBody m s).1.Sound := by
  unfold tagWindowBody
  split
  · split
    · exact h.of_eq rfl rfl rfl rfl rfl rfl
    · exact h
  · exact h

theorem State.endRebuild_sound {s : State} (h : s.Sound) (r : Rebuild) : (s.endRebuild r).Sound := by
  have ends : ∀ x, (s.withIndex x).Sound := fun x => h.of_eq rfl rfl rfl rfl rfl rfl
  cases hv : s.rebuiltIndex r.window with
  | some v => rw [State.endRebuild_taken hv]; exact (State.reply_frame _ .d _).sound (ends _)
  | none => rw [State.endRebuild_collision hv]; exact (State.reply_frame _ .d _).sound (ends _)

theorem siteLimitBody_sound {m : Msg} {s : State} (h : s.Sound) : (siteLimitBody m s).1.Sound := by
  unfold siteLimitBody
  split
  · rw [done_fst]
    refine State.requestIfExceeded_sound ((State.evalExceeded_frame _).sound ?_)
    exact h.of_eq rfl rfl rfl rfl rfl rfl
  · exact h

theorem loadReportBody_sound {m : Msg} {s : State} (h : s.Sound) : (loadReportBody m s).1.Sound := by
  unfold loadReportBody
  split
  · rw [done_fst]
    refine State.requestIfExceeded_sound ((State.evalLoadStale_frame _).sound ((State.evalExceeded_frame _).sound ?_))
    exact h.of_eq rfl rfl rfl rfl rfl rfl
  · exact h

theorem modeRequestBody_sound {m : Msg} {s : State} (h : s.Sound) : (modeRequestBody m s).1.Sound := by
  unfold modeRequestBody
  split
  · split
    · exact h
    · rw [done_fst]
      unfold State.requestMode
      split
      · exact h.of_eq rfl rfl rfl rfl rfl rfl
      · exact (s.changeMode_spec _).sound h
  · exact h

theorem releaseBays_sound : ∀ (l : List (Fin 32)) {s : State}, s.Sound → (l.foldl State.endSession s).Sound
  | [], _, h => h
  | b :: l, _, h => releaseBays_sound l (State.endSession_sound h b)

theorem releaseCabinetBody_sound {m : Msg} {s : State} (h : s.Sound) : (releaseCabinetBody m s).1.Sound := by
  simp only [releaseCabinetBody]
  split
  · exact h
  · split
    · exact h
    · rw [done_fst]; exact releaseBays_sound _ h

theorem slotAssignBody_sound {m : Msg} {s : State} (h : s.Sound) : (slotAssignBody m s).1.Sound := by
  unfold slotAssignBody
  split
  · simp only
    split
    · split
      · exact h.setBay ((h.bays.bay _).relinked _ _ _) rfl
      · exact h
    · exact h
  · exact h

theorem pinSetupBody_sound {pins : Byte} {m : Msg} {s : State} (h : s.Sound) : (pinSetupBody pins m s).1.Sound := by
  unfold pinSetupBody
  split
  · split
    · exact State.setupPins_sound h _ _ _
    · split
      · exact h.of_eq rfl rfl rfl rfl rfl rfl
      · exact h
  · exact h

/-- The handling of an item keeps bays and pass where the rule of its kind does. -/
theorem State.handle_sound {s : State} (h : s.Sound) {k : Kind} {p : Port} {body : Msg → State → State × Option Msg}
    (hb : ∀ m u, u.Sound → (body m u).1.Sound) : (s.handle k p body).Sound :=
  State.handle_keeps (P := State.Sound) (fun f hu => f.sound hu) (fun m _ hu => hb m _ hu) h

/-- The same of a cabinet's kind, whose rule finds the cabinet's bays reachable. -/
theorem State.handle_cabinet_sound {s : State} (h : s.Sound) (hL : s.LinksOk) (hR : s.ReachOk) {k : Kind} {p : Port}
    {f : Fin 4 → Msg → State → State × Option Msg}
    (hf : ∀ c m u, u.Sound → (∀ b, cabinetOf b = c → (u.bay b).reachable = true) → (f c m u).1.Sound) :
    (s.handle k p (onCabinet p f)).Sound := by
  refine State.handle_keeps (P := State.Sound) (fun f hu => f.sound hu) (fun m ho hu => ?_) h
  cases p with
  | c n => exact hf n m _ hu fun b hb => by rw [State.take_bay]; exact State.offered_reachable hL hR ho b hb
  | d | s => exact hu

/-! ### Every command -/

theorem State.Sound.ite {c : Prop} [Decidable c] {s t : State} (h : s.Sound) (ht : t.Sound) : State.Sound (if c then t else s) := by
  split
  · exact ht
  · exact h

theorem exec_sound {c : Instr} {s t : State} (hS : s.Sound) (hL : s.LinksOk) (hR : s.ReachOk) (h : exec c s = .next t) :
    t.Sound := by
  by_cases hc : offBooks c = true
  · exact (exec_books hc h).sound hS
  have inj : ∀ {u : State}, Host.Outcome.next (φ := Fault) (ρ := Refusal) u = .next t → u.Sound → t.Sound := by
    rintro u ⟨⟩ hu; exact hu
  cases c <;> simp only [offBooks, not_true_eq_false] at hc
  case messageComplete p => exact inj h (hS.ite (State.completeMessage_sound hS p))
  case headerFault p => exact inj h (hS.ite (State.faultHeader_sound hS p))
  case framingError p cause =>
    refine inj h (hS.ite ?_)
    simp only
    split
    · exact State.faultHeader_sound (State.settle_sound hS p) p
    · exact State.settle_sound hS p
  case idleGapElapsed p =>
    refine inj h (hS.ite ?_)
    simp only
    split
    · exact State.setRx_sound (State.settle_sound hS p) p _
    · exact State.settle_sound hS p
  case characterReceived p b => exact inj h (hS.ite (State.character_sound (State.settle_sound hS p) p b))
  case silenceTimerExpiry c => exact inj h (hS.ite ((s.detach_spec (.c c)).sound hS))
  case endOfGap p => exact inj h (hS.ite (State.beginSending_sound hS p))
  case outlets p => exact inj h (State.handle_cabinet_sound hS hL hR fun _ _ _ => outletsBody_sound)
  case plug p => exact inj h (State.handle_cabinet_sound hS hL hR fun _ _ _ hu _ => plugBody_sound hu)
  case unplug p => exact inj h (State.handle_cabinet_sound hS hL hR fun _ _ _ hu _ => unplugBody_sound hu)
  case meter p => exact inj h (State.handle_cabinet_sound hS hL hR fun _ _ _ => meterBody_sound)
  case applied p => exact inj h (State.handle_cabinet_sound hS hL hR fun _ _ _ hu _ => appliedBody_sound hu)
  case outletFault p => exact inj h (State.handle_cabinet_sound hS hL hR fun _ _ _ hu _ => outletFaultBody_sound hu)
  case rosterPut p => exact inj h (State.handle_sound hS fun _ _ => rosterPutBody_sound)
  case rosterDrop p => exact inj h (State.handle_sound hS fun _ _ => rosterDropBody_sound)
  case clockSet p => exact inj h (State.handle_sound hS fun _ _ => clockSetBody_sound)
  case tagWindow p => exact inj h (State.handle_sound hS fun _ _ => tagWindowBody_sound)
  case siteLimit p => exact inj h (State.handle_sound hS fun _ _ => siteLimitBody_sound)
  case loadReport p => exact inj h (State.handle_sound hS fun _ _ => loadReportBody_sound)
  case modeRequest p => exact inj h (State.handle_sound hS fun _ _ => modeRequestBody_sound)
  case restart p => exact inj h (State.handle_sound hS fun _ u _ => u.restart_sound)
  case releaseCabinet p => exact inj h (State.handle_sound hS fun _ _ => releaseCabinetBody_sound)
  case slotAssign p => exact inj h (State.handle_sound hS fun _ _ => slotAssignBody_sound)
  case pinSetup p pins => exact inj h (State.handle_sound hS fun _ _ => pinSetupBody_sound)
  case indexRebuildEnd =>
    refine inj h ?_
    split
    · exact hS
    · split
      · exact State.endRebuild_sound hS _
      · exact hS
  case secondComplete =>
    refine inj h (hS.ite ?_)
    simp only
    split
    · exact hS.of_eq rfl rfl rfl rfl rfl rfl
    · refine State.minuteTick_sound ?_
      exact hS.of_eq rfl rfl rfl rfl rfl rfl
  case minuteEvent =>
    refine inj h (hS.ite ?_)
    split
    · refine State.minuteTick_sound ?_
      exact hS.of_eq rfl rfl rfl rfl rfl rfl
    · refine hS.ite (State.minuteTick_sound ?_)
      exact hS.of_eq rfl rfl rfl rfl rfl rfl
  case minutePulse =>
    refine inj h (hS.ite (State.minuteTick_sound ?_))
    exact hS.of_eq rfl rfl rfl rfl rfl rfl
  case shedAssertion =>
    refine inj h (hS.ite (State.assertShed_sound ?_))
    exact hS.of_eq rfl rfl rfl rfl rfl rfl
  case shedRelease =>
    refine inj h (hS.ite ((State.releaseShed_books _).sound ?_))
    exact hS.of_eq rfl rfl rfl rfl rfl rfl
  case roundTimerExpiry => exact inj h (hS.ite (s.roundStart_spec.sound hS))
  case passCompletion =>
    refine inj h ?_
    split
    · exact hS
    · split
      · rename_i sn hsn; exact State.completePass_sound hS hsn
      · exact hS
  case slot k =>
    refine inj h ?_
    split
    · rename_i hc
      simp only [Bool.and_eq_true, Option.isNone_iff_eq_none] at hc
      have passed : (s.passSlot k).Sound := hS.of_eq rfl rfl rfl rfl rfl rfl
      obtain ⟨taken, kept⟩ := State.takeSlot_slotSound passed.slotSound k
      exact taken.sound (by rw [kept]; exact hc.1.2)
    · exact hS
  case resetAsserted =>
    refine inj h ?_
    split
    · exact hS
    · exact State.assertReset_sound hS
  case resetRelease cabs baud pins =>
    refine inj h (hS.ite ?_)
    exact (powerOn_sound cabs baud pins).of_eq rfl rfl rfl rfl rfl rfl

/-- Settles O56: every operation keeps bay records and pass sound, the cabinets' handlers because a port that offers an item
has reachable bays. -/
theorem keepsBays : Obligations.KeepsBays := by
  intro s t hL hR hB hP h
  have hS : s.Sound := ⟨hB, hP⟩
  suffices t.Sound from ⟨this.bays, this.pass⟩
  unfold step at h
  split at h
  · rename_i c rest _
    have takenS : State.Sound { s with pending := rest } := hS.of_eq rfl rfl rfl rfl rfl rfl
    have takenL : State.LinksOk { s with pending := rest } := ⟨hL.port, hL.room⟩
    have takenR : State.ReachOk { s with pending := rest } := ⟨hR.reachable, hR.board, hR.cabinet⟩
    exact exec_sound takenS takenL takenR h
  · cases h; exact s.tick_books.sound hS

end Sys2Proof.Machine
end

section
/-!
PROOFS. Reset release, RESTART, the roster's messages and the index rebuild, command by command (R9, R10, R12 to R16, R26,
R125, R145, R161, R163).
-/
namespace Sys2Proof.Machine

/-! ### Reset release and RESTART -/

/-- Settles O5. -/
theorem resetReleaseTakesPowerOnValues : Obligations.ResetReleaseTakesPowerOnValues := by
  intro s cabs baud pins hlow
  refine ⟨{ State.powerOn cabs baud pins with pending := s.pending }, ?_, rfl, rfl, rfl, rfl, rfl, rfl, fun b => ?_,
    powerOn_entry cabs baud pins, powerOn_indexAt cabs baud pins, rfl, rfl, rfl, rfl, rfl, rfl, fun b => ?_, rfl, rfl,
    fun b => ⟨?_, ?_⟩, rfl, rfl, rfl, fun p => ?_, fun c => ?_, rfl, rfl, rfl⟩
  · exact congrArg Host.Outcome.next (if_pos hlow)
  · have hb : State.bay { State.powerOn cabs baud pins with pending := s.pending } b = _ := powerOn_bay cabs baud pins b
    rw [hb]
    exact ⟨rfl, rfl, rfl, rfl, rfl, rfl, rfl, rfl, rfl⟩
  · simp [State.powerOn, State.marked]
  · simp [State.powerOn, State.pendingInc]
  · simp [State.powerOn, State.board]
  · simp [State.powerOn, State.port, LinkPort.powerOn]
  · simp [State.powerOn, State.cabinet, Cabinet.powerOn]

theorem State.restartBlocks_port (s : State) (p : Port) : s.restartBlocks.port p = (s.port p).restarted (p == .s) := by
  have place : (portIdx p == portIdx .s) = (p == .s) := by
    rw [Bool.eq_iff_iff, beq_iff_eq, beq_iff_eq]
    exact ⟨portIdx_inj, congrArg _⟩
  simp [State.restartBlocks, State.restartPorts, State.port, place]

/-! The conditions read nothing of the notice sets. -/

theorem State.exceededStands_congr {s t : State} (hb : ∀ b, t.bay b = s.bay b) (he : t.env = s.env) :
    t.exceededStands = s.exceededStands := by
  have total : t.total = s.total := by simp only [State.total, hb]
  simp only [State.exceededStands, total, he]

theorem State.linkTroubleStands_congr {s t : State} (hp : ∀ p, t.port p = s.port p) :
    t.linkTroubleStands = s.linkTroubleStands := by simp only [State.linkTroubleStands, hp]

theorem State.staleCabinetStands_congr {s t : State} (hp : ∀ p, t.present p = s.present p)
    (hc : ∀ c, t.cabinet c = s.cabinet c) : t.staleCabinetStands = s.staleCabinetStands := by
  simp only [State.staleCabinetStands, hp, hc]

theorem State.unconfirmedStands_congr {s t : State} (hb : ∀ b, t.bay b = s.bay b) :
    t.unconfirmedStands = s.unconfirmedStands := by simp only [State.unconfirmedStands, hb]

/-- What RESTART hands the D-set, block by block (R169). -/
theorem State.handConditions_dset (s : State) : s.handConditions.dset =
    (s.dset.setCond DFlag.overdue.bit s.overdueStands).setCond DFlag.atRisk.bit s.atRiskStands := by
  simp only [State.handConditions, State.evalUnconfirmed_dset, State.evalLoadStale_dset, State.evalStaleCabinet_dset,
    State.evalLinkTrouble_dset, State.evalShed_dset, State.evalExceeded_dset, State.evalAtRisk_dset, State.evalOverdue_dset]
  rfl

/-- What RESTART hands the S-set, block by block (R169). -/
theorem State.handConditions_sset (s : State) : s.handConditions.sset =
    (((((s.sset.setCond SFlag.envelopeExceeded.bit s.exceededStands).setCond SFlag.shedActive.bit s.env.shed).setCond
      SFlag.linkTrouble.bit s.linkTroubleStands).setCond SFlag.staleCabinet.bit s.staleCabinetStands).setCond
      SFlag.loadStale.bit s.env.stale).setCond SFlag.unconfirmedSetpoint.bit s.unconfirmedStands := by
  have exceeded : s.evalOverdue.evalAtRisk.exceededStands = s.exceededStands :=
    State.exceededStands_congr (fun _ => by simp) (by simp)
  have trouble : s.evalOverdue.evalAtRisk.evalExceeded.evalShed.linkTroubleStands = s.linkTroubleStands :=
    State.linkTroubleStands_congr fun _ => by simp
  have stale : s.evalOverdue.evalAtRisk.evalExceeded.evalShed.evalLinkTrouble.staleCabinetStands = s.staleCabinetStands :=
    State.staleCabinetStands_congr (fun p => by cases p <;> simp [State.present]) fun _ => by simp
  have unconfirmed : s.evalOverdue.evalAtRisk.evalExceeded.evalShed.evalLinkTrouble.evalStaleCabinet.evalLoadStale.unconfirmedStands
      = s.unconfirmedStands := State.unconfirmedStands_congr fun _ => by simp
  simp only [State.handConditions, State.evalUnconfirmed_sset, State.evalLoadStale_sset, State.evalStaleCabinet_sset,
    State.evalLinkTrouble_sset, State.evalShed_sset, State.evalExceeded_sset, State.evalAtRisk_sset, State.evalOverdue_sset,
    exceeded, trouble, stale, unconfirmed, State.evalStaleCabinet_env, State.evalLinkTrouble_env, State.evalShed_env,
    State.evalExceeded_env, State.evalAtRisk_env, State.evalOverdue_env]

/-- After a RESTART no entry is PLUGGED, no bay in session, every setpoint 0.0 kW, every port SOUND and every cabinet fresh:
of the held conditions, SHED ACTIVE and LOAD STALE alone can stand (R162, R169). -/
theorem State.restartBlocks_stands (s : State) : s.restartBlocks.overdueStands = false ∧ s.restartBlocks.atRiskStands = false ∧
    s.restartBlocks.exceededStands = false ∧ s.restartBlocks.linkTroubleStands = false ∧
    s.restartBlocks.staleCabinetStands = false ∧ s.restartBlocks.unconfirmedStands = false := by
  refine ⟨?_, ?_, ?_, ?_, ?_, ?_⟩
  · simp only [State.overdueStands, List.any_eq_false, s.restartBlocks_entry]
    intro k _
    cases s.entry k with
    | none => simp
    | some e =>
      simp only [Option.map_some, State.restartEntry]
      cases hs : e.state <;> simp [hs]
  · simp [State.atRiskStands, s.restartBlocks_bay, Bay.powerOn, Bay.session]
  · have total : s.restartBlocks.total = 0 := by
      simp [State.total, s.restartBlocks_bay, Bay.powerOn, Bay.allowance]
    simp [State.exceededStands, total]
  · simp [State.linkTroubleStands, s.restartBlocks_port, LinkPort.restarted]
  · have fresh : ∀ c, s.restartBlocks.cabinet c = Cabinet.powerOn := fun c => by
      simp [State.restartBlocks, State.cabinet]
    simp [State.staleCabinetStands, fresh, Cabinet.powerOn]
  · simp [State.unconfirmedStands, s.restartBlocks_bay, Bay.powerOn]

theorem State.restart_dset (s : State) : s.restart.dset = { s.dset with pending := 0, cond := 0 } := by
  obtain ⟨overdue, atRisk, -⟩ := s.restartBlocks_stands
  rw [State.restart, State.handConditions_dset, overdue, atRisk]
  simp [State.restartBlocks, NoticeSet.setCond, NoticeSet.restarted]

theorem State.restart_sset (s : State) :
    let standing : Mask := (if s.env.shed then 0x0002 else 0) ||| (if s.env.stale then 0x0010 else 0)
    s.restart.sset = { s.sset with pending := standing, cond := standing } := by
  obtain ⟨-, -, exceeded, trouble, stale, unconfirmed⟩ := s.restartBlocks_stands
  have env : s.restartBlocks.env = s.env := rfl
  have sset : s.restartBlocks.sset = { s.sset with pending := 0, cond := 0 } := rfl
  rw [State.restart, State.handConditions_sset, exceeded, trouble, stale, unconfirmed, env, sset]
  cases s.env.shed <;> cases s.env.stale <;> simp [NoticeSet.setCond, SFlag.bit]

theorem State.restartBlocks_frame (s : State) : SameBut [.mode, .pendingMode, .bays, .roster, .rebuild, .timer, .pass, .marks,
    .order, .early, .increases, .board, .budget, .slotTimes, .ports, .cabinets, .dset, .sset] s s.restartBlocks := by
  intro k hk
  cases k with
  | queue | reset | straps | index | clock | env | settings | pins => rfl
  | _ => simp at hk

/-- Settles O39. -/
theorem restartLosesAndKeeps : Obligations.RestartLosesAndKeeps := by
  intro s m ht hu hl standing
  have f := (s.take .s).restartBlocks.handConditions_frame
  have passes : Kind.restart.Passes .s m := ⟨rfl, by rw [hl]; rfl, by rw [hu]; rfl⟩
  have port : ∀ p, (s.take .s).restart.port p = ((s.take .s).port p).restarted (p == .s) := fun p => by
    rw [State.restart, f.port (by simp), State.restartBlocks_port]
  refine ⟨(s.take .s).restart, ?_, f .mode (by simp), f .pendingMode (by simp), f .rebuild (by simp), f .timer (by simp),
    f .pass (by simp), fun b => ?_, f .order (by simp), f .early (by simp), fun b => ⟨?_, ?_⟩, f .budget (by simp),
    f .slotTimes (by simp), fun b => ?_,
    fun k => ?_, fun p => ?_, fun c => ?_, ?_, ?_, ?_⟩
  · have acts : s.handle .restart .s restartBody = (s.take .s).restart.sends .s (m.answer (okResult false)) :=
      State.handle_done ht passes (by rw [restartBody]) (by rw [port]; simp [LinkPort.restarted])
    exact congrArg Host.Outcome.next acts
  · rw [State.restart, f.markAt (by simp)]; simp [State.restartBlocks, State.marked]
  · rw [State.restart, f.increaseAt (by simp)]; simp [State.restartBlocks, State.pendingInc]
  · rw [State.restart, f.boardAt (by simp)]; simp [State.restartBlocks, State.board]
  · rw [State.restart, f.bay (by simp), State.restartBlocks_bay, State.take_bay]; rfl
  · rw [State.restart, f.entry (by simp), State.restartBlocks_entry, State.take_entry]
    congr 1
  · rw [port, State.take_port]
    by_cases hp : p = .s
    · subst hp; simp [LinkPort.restarted]
    · simp [LinkPort.restarted, hp]
  · rw [State.restart, f.cabinet (by simp)]; simp [State.restartBlocks, State.cabinet, Cabinet.powerOn]
  · rw [State.restart_dset]; rfl
  · rw [State.restart_sset]; rfl
  · exact ((s.take_frame .s).mono (by simp)).trans ((State.restartBlocks_frame _).trans (f.mono (by simp)))

end Sys2Proof.Machine
end

section
/-!
PROOFS. The index rebuild and ROSTER DROP (R9, R10, R16, R145).
-/
namespace Sys2Proof.Machine

/-! ### The index rebuild (R9, R10, R145) -/

/-- Settles O31. -/
theorem tagWindowBeginsARebuild : Obligations.TagWindowBeginsARebuild := by
  intro s m w ht hu hl
  have passes : Kind.tagWindow.Passes .d m := ⟨rfl, by rw [hl]; rfl, by rw [hu]; rfl⟩
  refine ⟨fun hm => ?_, fun hm => ?_⟩
  · have body : tagWindowBody m (s.take .d) = refuse m (s.take .d) .wrongMode := by
      simp only [tagWindowBody, hl]
      exact if_neg hm
    exact congrArg Host.Outcome.next (State.handle_refuse ht passes body)
  · let t : State := { s.take .d with rebuild := some { window := min maxWindow w.toNat, clamped := maxWindow < w.toNat } }
    have body : tagWindowBody m (s.take .d) = (t, none) := by
      simp only [tagWindowBody, hl]
      exact if_pos hm
    refine ⟨t, congrArg Host.Outcome.next (State.handle_silent ht passes body), rfl, if_pos ⟨rfl, rfl⟩, ?_⟩
    intro k hk
    cases k with
    | rebuild => simp at hk
    | _ => rfl

theorem State.withIndex_frame (s : State) (x : TagIndex) : SameBut [.index, .rebuild] s (s.withIndex x) := by
  intro k hk
  cases k with
  | index | rebuild => simp at hk
  | _ => rfl

/-- Settles O32: the walk of `rebuiltIndex_spec` finds a collision exactly where two occupied slots fall together. -/
theorem rebuildEndReplacesTheIndex : Obligations.RebuildEndReplacesTheIndex := by
  intro s r hlow hr answered apart
  have run : exec .indexRebuildEnd s = .next (s.endRebuild r) := by
    simp only [exec, execIndexRebuildEnd, hlow, hr, Bool.false_eq_true, if_false]
  have answers : ∀ (x : TagIndex) (v : Mask),
      (s.withIndex x).reply .d (tagWindowAnswer v) = answered (s.withIndex x) v := fun x v => by
    by_cases hd : (s.port .d).health = .detached
    · have gone : answered (s.withIndex x) v = s.withIndex x := if_pos hd
      exact (State.reply_detached (s := s.withIndex x) _ hd).trans gone.symm
    · have sent : answered (s.withIndex x) v = (s.withIndex x).sends .d (tagWindowAnswer v) := if_neg hd
      exact (State.reply_eq_sends (s := s.withIndex x) _ hd).trans sent.symm
  have spec := s.rebuiltIndex_spec r.window
  cases hv : s.rebuiltIndex r.window with
  | some v =>
    rw [hv] at spec
    rw [run, State.endRebuild_taken hv, answers]
    refine ⟨fun _ => ⟨_, rfl, rfl, rfl, fun i j => ?_, s.withIndex_frame _⟩, fun ha => absurd ?_ ha⟩
    · exact (spec i j).trans ⟨fun h => h.2, fun h => ⟨mem_allSlots j, h⟩⟩
    · intro j i e f he hf ht
      have hj := (spec (tagEntry r.window e.tag) j).mpr ⟨mem_allSlots j, e, he, rfl⟩
      have hi := (spec (tagEntry r.window e.tag) i).mpr ⟨mem_allSlots i, f, hf, ht.symm⟩
      exact Option.some.inj (hj.symm.trans hi)
  | none =>
    rw [hv] at spec
    rw [run, State.endRebuild_collision hv, answers]
    obtain ⟨j, i, e, f, hne, he, hf, ht⟩ := spec
    exact ⟨fun ha => absurd (ha j i e f he hf ht) hne, fun _ => rfl⟩

/-! ### ROSTER DROP (R16) -/

/-- A drop of a tag in slot `j` (R16). -/
theorem rosterDropBody_found {s : State} {m : Msg} {t2 t1 t0 : Byte} {j : Fin 64} {e : Entry} (hl : m.payload = [t2, t1, t0])
    (hs : s.slotOf (fieldTag t2 t1 t0) = some j) (he : s.entry j = some e) :
    rosterDropBody m s = if e.isPlugged then refuse m s .inUse
      else done m ((s.setEntry j none).setIndex (tagEntry s.index.window (fieldTag t2 t1 t0)) none) false := by
  simp only [rosterDropBody, hl, hs, he]

/-- Settles O28. -/
theorem dropFreesTheSlot : Obligations.DropFreesTheSlot := by
  intro s m t2 t1 t0 ht hu hl tag
  have passes : Kind.rosterDrop.Passes .d m := ⟨rfl, by rw [hl]; rfl, by rw [hu]; rfl⟩
  refine ⟨fun hn => ?_, fun j e he hte huniq => ?_⟩
  · have slot : (s.take .d).slotOf (fieldTag t2 t1 t0) = none := State.slotOf_none (s := s.take .d) hn
    have body : rosterDropBody m (s.take .d) = refuse m (s.take .d) .notFound := by
      simp only [rosterDropBody, hl, slot]
    exact congrArg Host.Outcome.next (State.handle_refuse ht passes body)
  · have body := rosterDropBody_found (s := s.take .d) hl (State.slotOf_eq (s := s.take .d) he hte huniq) he
    refine ⟨fun hp => ?_, fun hp => ?_⟩
    · rw [hp, if_pos rfl] at body
      exact congrArg Host.Outcome.next (State.handle_refuse ht passes body)
    · rw [hp, if_neg (by simp)] at body
      have acts : s.handle .rosterDrop .d rosterDropBody =
          (((s.take .d).setEntry j none).setIndex (tagEntry s.index.window tag) none).sends .d (m.answer (okResult false)) :=
        State.handle_done ht passes body ht.attached
      exact congrArg Host.Outcome.next acts

end Sys2Proof.Machine
end

section
/-!
PROOFS. ROSTER PUT: the new tag, the rostered tag, and the bays that a put relinks (R12 to R15).
-/
namespace Sys2Proof.Machine

/-! ### The body's cases (R12 to R14) -/

/-- The fields of a put of nine bytes (R12). -/
def putOf (t2 t1 t0 d1 d0 e1 e0 k x : Byte) : PutFields where
  tag := fieldTag t2 t1 t0
  departure := min 4095 (field16 d1 d0)
  target := min 4000 (field16 e1 e0)
  cls := min 3 k.toNat
  barred := x != 0
  clamped := lastMinute < field16 d1 d0 || maxTarget < field16 e1 e0 || 3 < k.toNat || 1 < x.toNat

theorem putFields_putOf (t2 t1 t0 d1 d0 e1 e0 k x : Byte) :
    putFields [t2, t1, t0, d1, d0, e1, e0, k, x] = some (putOf t2 t1 t0 d1 d0 e1 e0 k x) := rfl

theorem okResult_putOf (t2 t1 t0 d1 d0 e1 e0 k x : Byte) : okResult (putOf t2 t1 t0 d1 d0 e1 e0 k x).clamped =
    if 4095 < field16 d1 d0 ∨ 4000 < field16 e1 e0 ∨ 3 < k.toNat ∨ 1 < x.toNat then Flag.clamped.result else 0 := by
  simp only [okResult, putOf, Bool.or_eq_true, decide_eq_true_eq, or_assoc]; rfl

section
variable {s : State} {m : Msg} {f : PutFields}

theorem rosterPutBody_collision (hf : putFields m.payload = some f) (hs : s.slotOf f.tag = none)
    (hi : (s.indexAt (tagEntry s.index.window f.tag)).isSome = true) : rosterPutBody m s = refuse m s .collision := by
  simp only [rosterPutBody, hf, hs, hi, if_true]

theorem rosterPutBody_full (hf : putFields m.payload = some f) (hs : s.slotOf f.tag = none)
    (hi : s.indexAt (tagEntry s.index.window f.tag) = none) (hfree : s.freeSlot = none) :
    rosterPutBody m s = refuse m s .rosterFull := by
  simp only [rosterPutBody, hf, hs, hi, hfree, Option.isSome_none, Bool.false_eq_true, if_false]

theorem rosterPutBody_new {j : Fin 64} (hf : putFields m.payload = some f) (hs : s.slotOf f.tag = none)
    (hi : s.indexAt (tagEntry s.index.window f.tag) = none) (hfree : s.freeSlot = some j) :
    rosterPutBody m s = done m ((s.addEntry j f).relink j) f.clamped := by
  simp only [rosterPutBody, hf, hs, hi, hfree, Option.isSome_none, Bool.false_eq_true, if_false]

theorem rosterPutBody_rostered {j : Fin 64} {e : Entry} (hf : putFields m.payload = some f) (hs : s.slotOf f.tag = some j)
    (he : s.entry j = some e) : rosterPutBody m s = done m ((s.updateEntry j e f).relink j) f.clamped := by
  simp only [rosterPutBody, hf, hs, he]

end

theorem State.updateEntry_put {s : State} {j : Fin 64} {e : Entry} {f : PutFields}
    (h : ¬ (e.barred = false ∧ f.barred = true ∧ e.isPlugged = true)) :
    s.updateEntry j e f = s.setEntry j (some (e.put f)) := by
  cases hs : e.state with
  | plugged b o =>
    have hn : ¬ (f.barred = true ∧ e.barred = false) := fun hb => h ⟨hb.2, hb.1, by simp [Entry.isPlugged, hs]⟩
    simp only [State.updateEntry, hs, if_neg hn]
  | waiting | departed => simp only [State.updateEntry, hs]

theorem State.updateEntry_bar {s : State} {j : Fin 64} {e : Entry} {f : PutFields} {b : Fin 32} {o : Bool}
    (hs : e.state = .plugged b o) (hb : f.barred = true) (he : e.barred = false) :
    s.updateEntry j e f = (s.setEntry j (some (e.put f))).barEntry j b := by
  simp only [State.updateEntry, hs, hb, he, and_self, if_true]

/-! ### Relinking (R15) -/

theorem State.relink_none_matches {s : State} {j : Fin 64}
    (h : ∀ e, s.entry j = some e → e.state = .waiting → ∀ b, s.relinks e.tag b = false) : s.relink j = s := by
  cases he : s.entry j with
  | none => simp only [State.relink, he]
  | some e =>
    simp only [State.relink, he]
    by_cases hw : e.state = .waiting
    · have none : allBays.filter (s.relinks e.tag) = [] := by simp [List.filter_eq_nil_iff, h e he hw]
      simp [hw, none, State.refuseBays, State.linkBays]
    · exact if_neg hw

theorem State.relink_barred {s : State} {j : Fin 64} {e : Entry} (he : s.entry j = some e) (hw : e.state = .waiting)
    (hb : e.barred = true) : s.relink j = s.refuseBays (s.relinked e.tag) := by
  simp only [State.relink, he, hw, hb, if_true, State.relinked]

theorem State.relink_open {s : State} {j : Fin 64} {e : Entry} (he : s.entry j = some e) (hw : e.state = .waiting)
    (hb : e.barred = false) : s.relink j = s.linkBays j e (s.relinked e.tag) := by
  simp only [State.relink, he]
  rw [if_pos hw, if_neg (by rw [hb]; simp), State.relinked]

theorem State.refuseBays_relinked (s : State) (t : Tag) :
    (∀ a y, s.relinks t a = true → (s.bay a).session = some y →
      (s.refuseBays (s.relinked t)).bay a = { s.bay a with occ := .session (y.deny .refused) }) ∧
    (∀ a, s.relinks t a = false → (s.refuseBays (s.relinked t)).bay a = s.bay a) ∧
    SameBut [.bays] s (s.refuseBays (s.relinked t)) := by
  obtain ⟨others, denied, -, frame⟩ := deny_walk s .refused (s.relinked t) (s.relinked_nodup t)
  refine ⟨fun a y ha => denied a y (State.mem_relinked.mpr ha), fun a ha => others a fun hm => ?_, frame⟩
  rw [State.mem_relinked.mp hm] at ha
  cases ha

/-- The relinking of a barred entry: where it waits, every matching bay is denied (R15). -/
theorem State.relink_denies {s : State} {j : Fin 64} {e : Entry} (he : s.entry j = some e) (hb : e.barred = true) :
    (∀ a y, e.state = .waiting → s.relinks e.tag a = true → (s.bay a).session = some y →
      (s.relink j).bay a = { s.bay a with occ := .session (y.deny .refused) }) ∧
    (∀ a, ¬ (e.state = .waiting ∧ s.relinks e.tag a = true) → (s.relink j).bay a = s.bay a) ∧
    SameBut [.bays] s (s.relink j) := by
  by_cases hw : e.state = .waiting
  · rw [State.relink_barred he hw hb]
    obtain ⟨denied, others, frame⟩ := s.refuseBays_relinked e.tag
    exact ⟨fun a y _ => denied a y, fun a ha => others a (by simpa [hw] using ha), frame⟩
  · rw [State.relink_none_matches fun f hf hwf => absurd (Option.some.inj (he.symm.trans hf) ▸ hwf) hw]
    exact ⟨fun _ _ h => absurd h hw, fun _ _ => rfl, SameBut.refl _ s⟩

/-- What the relinking of slot `j`'s entry `e` to its lowest matching bay `b` leaves. -/
structure LinksBay (s u : State) (j : Fin 64) (e : Entry) (b : Fin 32) : Prop where
  entry : u.entry j = some { e with state := .plugged b false }
  entries : ∀ i, i ≠ j → u.entry i = s.entry i
  linked : ∀ y, (s.bay b).session = some y → u.bay b = { s.bay b with occ := .session (y.grantSlot j) }
  denied : ∀ a y, a ≠ b → s.relinks e.tag a = true → (s.bay a).session = some y →
    u.bay a = { s.bay a with occ := .session (y.deny .duplicate) }
  others : ∀ a, s.relinks e.tag a = false → u.bay a = s.bay a
  dset : u.dset = if ∃ a, a ≠ b ∧ s.relinks e.tag a = true then s.dset.raise DFlag.duplicateTag.bit else s.dset
  frame : SameBut [.roster, .bays, .dset] s u

theorem State.relink_links {s : State} {j : Fin 64} {e : Entry} {b : Fin 32} (he : s.entry j = some e)
    (hw : e.state = .waiting) (hb : e.barred = false) (hm : s.relinks e.tag b = true)
    (hmin : ∀ a, a < b → s.relinks e.tag a = false) : LinksBay s (s.relink j) j e b := by
  obtain ⟨rest, hlist, hrest⟩ := filter_head hm hmin
  obtain ⟨x, hx⟩ := State.relinks_session hm
  have nodup : rest.Nodup := by
    have h := s.relinked_nodup e.tag
    rw [State.relinked, hlist] at h
    exact (List.nodup_cons.mp h).2
  set t := (s.setBay b { s.bay b with occ := .session (x.grantSlot j) }).setEntry j
    (some { e with state := .plugged b false }) with ht
  have bay : ∀ a, t.bay a = if a = b then { s.bay b with occ := .session (x.grantSlot j) } else s.bay a := fun a => by
    rw [ht, State.setEntry_bay, State.bay_setBay]
  have tf : SameBut [.roster, .bays] s t := (s.setBay_frame b _).comp (State.setEntry_frame _ j _) (by simp) (by simp)
  obtain ⟨others, denied, -, wf⟩ := deny_walk t .duplicate rest nodup
  set w := rest.foldl (fun v b' => v.onSession b' (·.deny .duplicate)) t with hwalk
  have hu : s.relink j = if rest = [] then w else w.raiseD .duplicateTag := by
    rw [State.relink_open he hw hb, State.relinked, hlist]
    simp only [State.linkBays, State.onSession_some _ hx, hwalk, ht]
  have books : (s.relink j).bays = w.bays ∧ (s.relink j).roster = w.roster := by rw [hu]; split <;> exact ⟨rfl, rfl⟩
  have ubay : ∀ a, (s.relink j).bay a = w.bay a := fun a => by rw [State.bay, books.1]; rfl
  have uent : ∀ i, (s.relink j).entry i = t.entry i := fun i => by
    rw [← wf.entry (by simp) i, State.entry, books.2]; rfl
  have ex : (∃ a, a ≠ b ∧ s.relinks e.tag a = true) ↔ rest ≠ [] := by
    simp only [← hrest]
    exact ⟨fun h => List.ne_nil_of_mem h.choose_spec, List.exists_mem_of_ne_nil rest⟩
  refine ⟨by rw [uent, ht]; simp, fun i hi => by rw [uent, ht]; simp [hi], fun y hy => ?_, fun a y hab ha hy => ?_,
    fun a ha => ?_, ?_, ?_⟩
  · rw [ubay, others b fun h => ((hrest b).mp h).1 rfl, bay, if_pos rfl, Option.some.inj (hy.symm.trans hx)]
  · rw [ubay, denied a y ((hrest a).mpr ⟨hab, ha⟩) (by rw [bay, if_neg hab]; exact hy), bay, if_neg hab]
  · have hab : a ≠ b := fun h => by rw [h, hm] at ha; cases ha
    have hr : a ∉ rest := fun h => by rw [((hrest a).mp h).2] at ha; cases ha
    rw [ubay, others a hr, bay, if_neg hab]
  · have hd : w.dset = s.dset := (wf .dset (by simp)).trans (tf .dset (by simp))
    rw [hu]
    by_cases hr : rest = []
    · rw [if_pos hr, if_neg (by rw [ex]; simp [hr]), hd]
    · rw [if_neg hr, if_pos (ex.mpr hr), ← hd]; rfl
  · rw [hu]
    split
    · exact (tf.trans (wf.mono (by simp))).mono (by simp)
    · exact (tf.trans (wf.mono (by simp))).comp (State.raiseD_frame _ _) (by simp) (by simp)

theorem State.addEntry_entry (s : State) (j : Fin 64) (f : PutFields) (i : Fin 64) : (s.addEntry j f).entry i =
    if i = j then some { tag := f.tag, departure := f.departure, target := f.target, cls := f.cls, barred := f.barred
                         state := .waiting, lastEnergy := none } else s.entry i :=
  s.entry_setEntry j _ i

/-! ### Barring a PLUGGED entry (R13) -/

theorem Session.deny_deny (y : Session) (d : Disposition) : (y.deny d).deny d = y.deny d := by
  cases h : y.phase <;> simp [Session.deny, h]

theorem relinks_of_bay {s t : State} {b : Fin 32} (h : t.bay b = s.bay b) (g : Tag) : t.relinks g b = s.relinks g b := by
  simp only [State.relinks, h]

theorem State.leavePlugged_some {s : State} {j : Fin 64} {e : Entry} (he : s.entry j = some e) (n : Nat) :
    s.leavePlugged j n = (s.setEntry j (some (e.leave s.clock.minute n))).evalOverdue := by
  simp only [State.leavePlugged, he]

theorem Entry.leave_waiting {e : Entry} {minute n : Nat} : (e.leave minute n).state = .waiting ↔ minute < e.departure := by
  by_cases h : minute < e.departure <;> simp [Entry.leave, h]

/-- What barring slot `j`'s entry `e`, PLUGGED at bay `b` with session `y`, leaves before the relinking. -/
structure BarsEntry (s u : State) (j : Fin 64) (e : Entry) (b : Fin 32) (y : Session) : Prop where
  entry : u.entry j = some (e.leave s.clock.minute y.delivered)
  entries : ∀ i, i ≠ j → u.entry i = s.entry i
  bay : u.bay b = { s.bay b with occ := .session (y.deny .refused) }
  bays : ∀ a, a ≠ b → u.bay a = s.bay a
  dset : NoticeSet.SameBut DFlag.overdue.bit s.dset u.dset
  frame : SameBut [.roster, .bays, .dset] s u

theorem State.barEntry_spec {s : State} {j : Fin 64} {e : Entry} {b : Fin 32} {y : Session} (he : s.entry j = some e)
    (hy : (s.bay b).session = some y) : BarsEntry s (s.barEntry j b) j e b y := by
  have hu : s.barEntry j b = ((s.setEntry j (some (e.leave s.clock.minute y.delivered))).evalOverdue).setBay b
      { s.bay b with occ := .session (y.deny .refused) } := by
    rw [State.barEntry, hy, State.leavePlugged_some he]
    exact State.onSession_some _ hy
  rw [hu]
  refine ⟨by simp, fun i hi => by simp [hi], by simp, fun a ha => by simp [ha], NoticeSet.setCond_frame _ _ _, ?_⟩
  exact ((s.setEntry_frame j _).mono (by simp)).trans
    ((State.evalOverdue_frame _).comp (State.setBay_frame _ b _) (by simp) (by simp))

end Sys2Proof.Machine
end

section
/-!
PROOFS. ROSTER PUT, the statements: O25, O26 and O27.
-/
namespace Sys2Proof.Machine

/-- A put acted on: its effects and the answer with the clamping (R106, R12). -/
theorem State.rosterPut_acts {s u : State} {m : Msg} {t2 t1 t0 d1 d0 e1 e0 k x : Byte} (ht : s.Takes .d .rosterPut m)
    (hu : m.unit = 0xFF) (hl : m.payload = [t2, t1, t0, d1, d0, e1, e0, k, x]) (hports : u.ports = (s.take .d).ports)
    (hb : rosterPutBody m (s.take .d) = done m u (putOf t2 t1 t0 d1 d0 e1 e0 k x).clamped) :
    exec (.rosterPut .d) s = .next (u.sends .d (m.answer
      (if 4095 < field16 d1 d0 ∨ 4000 < field16 e1 e0 ∨ 3 < k.toNat ∨ 1 < x.toNat then Flag.clamped.result else 0))) := by
  have passes : Kind.rosterPut.Passes .d m := ⟨rfl, by rw [hl]; rfl, by rw [hu]; rfl⟩
  have attached : (u.port .d).health ≠ .detached := by rw [State.port, hports]; exact ht.attached
  rw [← okResult_putOf t2 t1 t0 d1 d0 e1 e0 k x]
  exact congrArg Host.Outcome.next (State.handle_done ht passes hb attached)

theorem State.rosterPut_refuses {s : State} {m : Msg} {f : Flag} (ht : s.Takes .d .rosterPut m) (hu : m.unit = 0xFF)
    (hl : m.payload.length = 9) (hb : rosterPutBody m (s.take .d) = refuse m (s.take .d) f) :
    exec (.rosterPut .d) s = .next ((s.take .d).sends .d (m.answer f.result)) :=
  congrArg Host.Outcome.next (State.handle_refuse ht ⟨rfl, by rw [hl]; rfl, by rw [hu]; rfl⟩ hb)

/-- Settles O25. -/
theorem putOfANewTag : Obligations.PutOfANewTag := by
  intro s m t2 t1 t0 d1 d0 e1 e0 k x ht hu hl tag at' hnew
  have hf : putFields m.payload = some (putOf t2 t1 t0 d1 d0 e1 e0 k x) := by rw [hl, putFields_putOf]
  have slot : (s.take .d).slotOf (putOf t2 t1 t0 d1 d0 e1 e0 k x).tag = none := State.slotOf_none (s := s.take .d) hnew
  have length : m.payload.length = 9 := by rw [hl]; rfl
  refine ⟨fun hi => ?_, fun hi hfull => ?_, fun j hi hj hmin hno => ?_⟩
  · exact State.rosterPut_refuses ht hu length (rosterPutBody_collision hf slot hi)
  · exact State.rosterPut_refuses ht hu length
      (rosterPutBody_full hf slot hi (State.freeSlot_none (s := s.take .d) hfull))
  · have body := rosterPutBody_new hf slot hi (State.freeSlot_eq (s := s.take .d) hj hmin)
    rw [State.relink_none_matches fun e he _ b => ?_] at body
    · exact State.rosterPut_acts ht hu hl rfl body
    · rw [State.addEntry_entry, if_pos rfl] at he
      cases he
      exact hno b

/-- Settles O26. -/
theorem putOfARosteredTag : Obligations.PutOfARosteredTag := by
  intro s m t2 t1 t0 d1 d0 e1 e0 k x j e ht hu hl he htag huniq hno e' refused ans
  generalize hp : putOf t2 t1 t0 d1 d0 e1 e0 k x = f
  have tag : f.tag = e.tag := by rw [← hp, htag]; rfl
  have barred : f.barred = true ↔ x ≠ 0 := by rw [← hp]; simp [putOf]
  have body := rosterPutBody_rostered (s := s.take .d) (f := f) (by rw [hl, putFields_putOf, hp])
    (State.slotOf_eq (s := s.take .d) he tag.symm (by rw [tag]; exact huniq)) he
  refine ⟨fun hn => ?_, fun b o y hb hx hst hy => ?_⟩
  · rw [State.updateEntry_put (by rw [barred]; exact hn), State.relink_none_matches fun g hg hw b => ?_] at body
    · subst hp; exact State.rosterPut_acts ht hu hl rfl body
    · rw [State.entry_setEntry, if_pos rfl] at hg
      cases hg
      exact hno hw b
  · rw [State.updateEntry_bar hst (barred.mpr hx) hb] at body
    have B := State.barEntry_spec (s := (s.take .d).setEntry j (some (e.put f))) (j := j) (e := e.put f) (b := b) (y := y)
      (by simp) hy
    generalize ((s.take .d).setEntry j (some (e.put f))).barEntry j b = v at B body
    obtain ⟨denied, others, frame⟩ := State.relink_denies B.entry (barred.mpr hx)
    have relinks : ∀ a, a ≠ b → v.relinks e.tag a = s.relinks e.tag a := fun a hab => relinks_of_bay (B.bays a hab) _
    subst hp
    have acts := State.rosterPut_acts ht hu hl ((frame .ports (by simp)).trans (B.frame .ports (by simp))) body
    refine ⟨v.relink j, acts, ?_, fun i hi => ?_, ?_, fun a z hab hm ha hz => ?_, fun a hab ha => ?_, ?_, ?_⟩
    · exact (frame.entry (by simp) j).trans B.entry
    · rw [frame.entry (by simp), B.entries i hi, State.entry_setEntry, if_neg hi, State.take_entry]
    · have session : (v.bay b).session = some (y.deny .refused) := by rw [B.bay]; rfl
      by_cases hr : s.clock.minute < e'.departure ∧ v.relinks e.tag b = true
      · have h := denied b _ (Entry.leave_waiting.mpr hr.1) hr.2 session
        rw [Session.deny_deny, B.bay] at h
        exact h
      · have h := others b fun h => hr ⟨Entry.leave_waiting.mp h.1, h.2⟩
        rw [B.bay] at h
        exact h
    · have hbay : v.bay a = s.bay a := B.bays a hab
      have h := denied a z (Entry.leave_waiting.mpr hm) ((relinks a hab).trans ha) (by rw [hbay]; exact hz)
      rw [hbay] at h
      exact h
    · have h := others a fun h => ha ⟨Entry.leave_waiting.mp h.1, (relinks a hab).symm.trans h.2⟩
      exact h.trans (B.bays a hab)
    · have hd : (v.relink j).dset = v.dset := frame .dset (by simp)
      rw [hd]
      exact B.dset
    · exact ((State.setEntry_frame _ j _).mono (by simp)).trans (B.frame.comp frame (by simp) (by simp))

/-- The state in which a put at a WAITING entry starts to relink: slot `j` holds `e'`, the index `index`, and no bay has
changed. -/
structure PutStored (s v : State) (j : Fin 64) (e' : Entry) (index : TagIndex) : Prop where
  entry : v.entry j = some e'
  entries : ∀ i, i ≠ j → v.entry i = s.entry i
  index : v.index = index
  frame : SameBut [.roster, .index] s v

theorem rosterPutBody_stores {s : State} {m : Msg} {f : PutFields} {j : Fin 64} {e : Entry}
    (hf : putFields m.payload = some f) (tag : f.tag = e.tag) (hw : e.state = .waiting)
    (h : (s.entry j = some e ∧ ∀ i g, s.entry i = some g → g.tag = e.tag → i = j) ∨
      ((∀ i g, s.entry i = some g → g.tag ≠ e.tag) ∧ s.indexAt (tagEntry s.index.window e.tag) = none ∧ s.entry j = none ∧
        (∀ i, i < j → (s.entry i).isSome = true) ∧ e.lastEnergy = none)) :
    ∃ v, rosterPutBody m s = done m (v.relink j) f.clamped ∧ PutStored s v j (e.put f)
      (if s.entry j = none then (s.setIndex (tagEntry s.index.window e.tag) (some j)).index else s.index) := by
  rcases h with ⟨he, huniq⟩ | ⟨hnew, hi, hj, hmin, hlast⟩
  · have stays : ¬ (e.barred = false ∧ f.barred = true ∧ e.isPlugged = true) := by simp [Entry.isPlugged, hw]
    refine ⟨s.updateEntry j e f, rosterPutBody_rostered hf (State.slotOf_eq he tag.symm (by rw [tag]; exact huniq)) he, ?_⟩
    rw [State.updateEntry_put stays]
    exact ⟨by simp, fun i hi => by simp [hi], (if_neg (by rw [he]; simp)).symm, (s.setEntry_frame j _).mono (by simp)⟩
  · have entry : e.put f = { tag := f.tag, departure := f.departure, target := f.target, cls := f.cls, barred := f.barred
                             state := .waiting, lastEnergy := none } := by
      rw [tag, ← hw, ← hlast]; rfl
    have fresh : s.addEntry j f = (s.setEntry j (some (e.put f))).setIndex (tagEntry s.index.window e.tag) (some j) := by
      rw [entry, State.addEntry, tag]
    refine ⟨s.addEntry j f, rosterPutBody_new hf (State.slotOf_none (by rw [tag]; exact hnew)) (by rw [tag]; exact hi)
      (State.freeSlot_eq hj hmin), ?_⟩
    rw [fresh]
    exact ⟨by simp, fun i hi => by simp [hi], (if_pos hj).symm,
      (s.setEntry_frame j _).comp (State.setIndex_frame _ _ _) (by simp) (by simp)⟩

/-- Settles O27. -/
theorem putRelinks : Obligations.PutRelinks := by
  intro s m t2 t1 t0 d1 d0 e1 e0 k x j e ht hu hl htag hw at' hcase index e' ans takes
  generalize hp : putOf t2 t1 t0 d1 d0 e1 e0 k x = f
  have tag : f.tag = e.tag := by rw [← hp, htag]; rfl
  have barred : f.barred = (x != 0) := by rw [← hp]; rfl
  have hf : putFields m.payload = some f := by rw [hl, putFields_putOf, hp]
  obtain ⟨v, body, V⟩ := rosterPutBody_stores (s := s.take .d) hf tag hw hcase
  have bay : ∀ a, v.bay a = s.bay a := V.frame.bay (by simp)
  have relinks : v.relinks e.tag = s.relinks e.tag := relinks_congr bay _
  have ports : v.ports = (s.take .d).ports := V.frame .ports (by simp)
  refine ⟨fun b hx hm hmin => ?_, fun hx => ?_⟩
  · have B := State.relink_links (s := v) (b := b) V.entry hw (by simp [Entry.put, barred, hx]) (by rw [← hm, ← relinks]; rfl)
      (by intro a ha; rw [← hmin a ha, ← relinks]; rfl)
    subst hp
    have acts := State.rosterPut_acts ht hu hl ((B.frame .ports (by simp)).trans ports) body
    refine ⟨v.relink j, acts, B.entry, fun i hi => (B.entries i hi).trans (V.entries i hi), fun y hy => ?_,
      fun a hab ha y hy => ?_, fun a ha => ?_, ?_, ?_, ?_⟩
    · have h := B.linked y ((bay b).symm ▸ hy)
      rw [bay] at h
      exact h
    · have h := B.denied a y hab ((congrFun relinks a).trans ha) ((bay a).symm ▸ hy)
      rw [bay] at h
      exact h
    · exact (B.others a ((congrFun relinks a).trans ha)).trans (bay a)
    · have h := B.dset
      rw [show v.relinks (e.put _).tag = s.relinks e.tag from relinks, V.frame .dset (by simp)] at h
      exact h
    · exact (B.frame .index (by simp)).trans V.index
    · exact V.frame.comp B.frame (by simp) (by simp)
  · obtain ⟨denied, others, frame⟩ := State.relink_denies V.entry (by simpa [Entry.put, barred] using hx)
    subst hp
    have acts := State.rosterPut_acts ht hu hl ((frame .ports (by simp)).trans ports) body
    refine ⟨v.relink j, acts, (frame.entry (by simp) j).trans V.entry,
      fun i hi => (frame.entry (by simp) i).trans (V.entries i hi), fun a ha y hy => ?_, fun a ha => ?_, ?_, ?_⟩
    · have h := denied a y hw ((congrFun relinks a).trans ha) ((bay a).symm ▸ hy)
      rw [bay] at h
      exact h
    · have hn : v.relinks e.tag a = false := (congrFun relinks a).trans ha
      exact (others a fun h => by rw [show v.relinks e.tag a = true from h.2] at hn; cases hn).trans (bay a)
    · exact (frame .index (by simp)).trans V.index
    · exact V.frame.comp frame (by simp) (by simp)

end Sys2Proof.Machine
end

section
/-!
PROOFS. Bay messages: RELEASE CABINET, UNPLUG and a vacant METER, OUTLET FAULT, and PLUG (R17 to R19, R22, R23, R94, R125, R131,
R132, R134, R139).
-/
namespace Sys2Proof.Machine

/-! ### What the claims of this file share -/

theorem LinkPort.Kicked.health {r r' : LinkPort} (h : LinkPort.Kicked r r') : r'.health = r.health := by
  rcases h with rfl | ⟨-, rfl⟩ <;> rfl

theorem rosterOk_of_books {l : List Block} {s t : State} (f : SameBut l s t) (hb : Block.bays ∉ l) (hr : Block.roster ∉ l)
    (h : s.RosterOk) : t.RosterOk :=
  rosterOk_congr (fun b => namedSlot_congr (congrArg Bay.disp (f.bay hb b))) (fun k => namedBay_congr (f.entry hr k)) h

/-- A message of a cabinet that names outlet `o`, of a kind that takes every outlet. -/
theorem Kind.passes_outlet {k : Kind} {c : Fin 4} {o : Fin 8} {m : Msg} (hp : k.accepts (.c c) = true)
    (hl : k.lengthOk m.payload.length = true) (hu : m.unit = BitVec.ofNat 8 o.val)
    (hk : ∀ o : Fin 8, k.unitOk (BitVec.ofNat 8 o.val) = true) : k.Passes (.c c) m := ⟨hp, hl, hu ▸ hk o⟩

/-! ### RELEASE CABINET (R125) -/

theorem unit_mod_four (c : Fin 4) : (⟨(BitVec.ofNat 8 c.val).toNat % 4, by omega⟩ : Fin 4) = c := by revert c; decide

theorem releaseCabinetBody_eq {s : State} {m : Msg} {c : Fin 4} (hu : m.unit = BitVec.ofNat 8 c.val) :
    releaseCabinetBody m s = if s.present (.c c) = false then refuse m s .badUnit
      else if (s.port (.c c)).health ≠ .detached then refuse m s .wrongState
      else done m (s.releaseBays c) false := by
  simp only [releaseCabinetBody, hu, unit_mod_four]

/-- Settles O40. -/
theorem releaseCabinetEndsItsSessions : Obligations.ReleaseCabinetEndsItsSessions := by
  intro s m c ht hu hl hR
  have passes : Kind.releaseCabinet.Passes .s m :=
    ⟨rfl, by rw [hl]; rfl, hu ▸ (by decide : ∀ c : Fin 4, Kind.releaseCabinet.unitOk (BitVec.ofNat 8 c.val) = true) c⟩
  have body := releaseCabinetBody_eq (s := s.take .s) hu
  have present : (s.take .s).present (.c c) = decide (c.val ≤ s.straps.cabs.toNat) := rfl
  have port : (s.take .s).port (.c c) = s.port (.c c) := by simp
  rw [present, port] at body
  refine ⟨fun h => ?_, fun h hp => ?_, fun h hp => ?_⟩
  · rw [if_pos (by simpa using h)] at body
    exact congrArg Host.Outcome.next (State.handle_refuse ht passes body)
  · rw [if_neg (by simpa using h), if_pos hp] at body
    exact congrArg Host.Outcome.next (State.handle_refuse ht passes body)
  · rw [if_neg (by simpa using h), if_neg (by simpa using hp)] at body
    have W := endWalk_spec (rosterOk_of_books (s.take_frame .s) (by simp) (by simp) hR) (baysOf c) (baysOf_nodup c)
    have attached : (((s.take .s).releaseBays c).port .s).health ≠ .detached := by
      rw [State.releaseBays, W.frame.port (by simp)]; exact ht.attached
    have acts : s.handle .releaseCabinet .s releaseCabinetBody =
        ((s.take .s).releaseBays c).sends .s (m.answer (okResult false)) := State.handle_done ht passes body attached
    refine ⟨(s.take .s).releaseBays c, congrArg Host.Outcome.next acts, fun b x hb hx => ?_, fun b hb => ?_, fun k hk => ?_,
      fun b => ?_, W.dset, W.sset, W.frame⟩
    · exact W.ended b x (mem_baysOf.mpr hb) hx
    · exact W.kept b (by rw [mem_baysOf]; exact hb)
    · exact W.entries k fun b hb => hk b (mem_baysOf.mp hb)
    · have h := W.marks b
      simp only [mem_baysOf] at h
      exact h

/-! ### UNPLUG, and METER of a vacant outlet (R132, R134) -/

/-- Settles O22. -/
theorem unplugAndMeterEndTheSession : Obligations.UnplugAndMeterEndTheSession := by
  refine ⟨fun s c m o ht hu hl => ?_, fun s c m o occ d1 d0 w1 w0 p1 p0 a1 a0 q ht hu hl => ?_⟩
  · have passes : Kind.unplug.Passes (.c c) m := Kind.passes_outlet rfl (by rw [hl]; rfl) hu (by decide)
    have unit : bayOfUnit c m.unit = bayAt c o := by rw [hu, bayOfUnit_ofNat]
    have bay : (s.take (.c c)).bay (bayAt c o) = s.bay (bayAt c o) := s.take_bay _ _
    cases ho : (s.bay (bayAt c o)).occ with
    | unfitted =>
      have body : onCabinet (.c c) unplugBody m (s.take (.c c)) = refuse m (s.take (.c c)) .badUnit := by
        simp only [onCabinet, unplugBody, unit, bay, ho]
      exact congrArg Host.Outcome.next (State.handle_refuse ht passes body)
    | vacant =>
      have body : onCabinet (.c c) unplugBody m (s.take (.c c)) = refuse m (s.take (.c c)) .wrongState := by
        simp only [onCabinet, unplugBody, unit, bay, ho]
      exact congrArg Host.Outcome.next (State.handle_refuse ht passes body)
    | session x =>
      have E := State.endSession_spec (s := s.take (.c c)) (b := bayAt c o) (x := x) (by
        rw [bay]; exact Bay.session_eq_some.mpr ho)
      have body : onCabinet (.c c) unplugBody m (s.take (.c c)) = done m ((s.take (.c c)).endSession (bayAt c o)) false := by
        simp only [onCabinet, unplugBody, unit, bay, ho]
      have acts : s.handle .unplug (.c c) (onCabinet (.c c) unplugBody) =
          ((s.take (.c c)).endSession (bayAt c o)).sends (.c c) (m.answer (okResult false)) :=
        State.handle_done ht passes body (by rw [E.frame.port (by simp)]; exact ht.attached)
      exact ⟨_, E, congrArg Host.Outcome.next acts⟩
  · have passes : Kind.meter.Passes (.c c) m := Kind.passes_outlet rfl (by rw [hl]; rfl) hu (by decide)
    have unit : bayOfUnit c m.unit = bayAt c o := by rw [hu, bayOfUnit_ofNat]
    have bay : (s.take (.c c)).bay (bayAt c o) = s.bay (bayAt c o) := s.take_bay _ _
    cases hs : (s.bay (bayAt c o)).session with
    | none =>
      have body : onCabinet (.c c) meterBody m (s.take (.c c)) = (s.take (.c c), none) := by
        simp only [onCabinet, meterBody, hl, meterFields, unit, bay, hs]
      exact congrArg Host.Outcome.next (State.handle_silent ht passes body)
    | some x =>
      intro hocc
      have E := State.endSession_spec (s := s.take (.c c)) (b := bayAt c o) (x := x) (by rw [bay]; exact hs)
      have body : onCabinet (.c c) meterBody m (s.take (.c c)) = ((s.take (.c c)).endSession (bayAt c o), none) := by
        simp only [onCabinet, meterBody, unit, bay, hs, hl, meterFields, hocc, bne_self_eq_false, Bool.false_eq_true, if_false]
      exact ⟨_, E, congrArg Host.Outcome.next (State.handle_silent ht passes body)⟩

/-! ### OUTLET FAULT (R139, R22, R94) -/

/-- What an OUTLET FAULT leaves at bay `b` in session with `y`. -/
structure Faults (s u : State) (b : Fin 32) (y : Session) (code : Byte) : Prop where
  again : (∃ old, y.phase = .fault old) →
    u.bay b = { s.bay b with occ := .session { y with phase := .fault code } } ∧ u.board b = s.board b
  first : (¬ ∃ old, y.phase = .fault old) →
    u.bay b = { s.bay b with occ := .session { y with phase := .fault code }, published := 0, seq := (s.bay b).seq + 1 } ∧
    u.board b = some (0, (s.bay b).seq + 1)
  others : ∀ a, a ≠ b → u.bay a = s.bay a ∧ u.board a = s.board a
  notice : u.sset.pending &&& SFlag.outletFault.bit ≠ 0
  ports : ∀ p, LinkPort.Kicked (s.port p) (u.port p)
  sset : NoticeSet.SameBut 0x0041 s.sset u.sset
  frame : SameBut [.bays, .board, .ports, .sset] s u

theorem State.faultOutlet_spec {s : State} {b : Fin 32} (y : Session) (code : Byte) (hr : (s.bay b).reachable = true) :
    Faults s (s.faultOutlet b y code) b y code := by
  set t := s.setBay b { s.bay b with occ := .session { y with phase := .fault code } } with ht
  have tb : t.bay b = { s.bay b with occ := .session { y with phase := .fault code } } := by simp [ht]
  have others : ∀ a, a ≠ b → t.bay a = s.bay a := fun a ha => by simp [ht, ha]
  have tf : SameBut [.bays] s t := s.setBay_frame b _
  have raised : ∀ u : State, (u.raiseS .outletFault).sset.pending &&& SFlag.outletFault.bit ≠ 0 := fun u => by
    rw [State.raiseS, NoticeSet.raise_pending]; decide
  by_cases hf : ∃ old, y.phase = .fault old
  · have eq : s.faultOutlet b y code = t.raiseS .outletFault := by
      obtain ⟨old, hold⟩ := hf
      simp only [State.faultOutlet, hold, ht]
    rw [eq]
    exact ⟨fun _ => ⟨tb, rfl⟩, fun h => absurd hf h, fun a ha => ⟨others a ha, rfl⟩, raised t, fun p => .refl _,
      (NoticeSet.raise_frame _ _).mono (by decide), tf.comp (State.raiseS_frame t _) (by simp) (by simp)⟩
  · have eq : s.faultOutlet b y code = (t.publish b 0).raiseS .outletFault := by
      unfold State.faultOutlet
      cases hp : y.phase with
      | fault old => exact absurd ⟨old, hp⟩ hf
      | _ => rfl
    have P := State.publish_spec (s := t) (b := b) 0 (by rw [tb]; exact hr)
    rw [eq]
    refine ⟨fun h => absurd h hf, fun _ => ⟨?_, ?_⟩, fun a ha => ⟨(P.bays a ha).trans (others a ha), P.boards a ha⟩,
      raised _, P.ports, P.sset.comp (NoticeSet.raise_frame _ _) (by decide) (by decide), ?_⟩
    · have h := P.bay
      rw [tb] at h
      exact h
    · have h := P.board
      rw [tb] at h
      exact h
    · exact (tf.mono (by simp)).trans (P.frame.comp (State.raiseS_frame _ _) (by simp) (by simp))

/-- Settles O24. -/
theorem outletFaultPublishesZero : Obligations.OutletFaultPublishesZero := by
  intro s c m o code ht hu hl hr b x
  have passes : Kind.outletFault.Passes (.c c) m := Kind.passes_outlet rfl (by rw [hl]; rfl) hu (by decide)
  have unit : bayOfUnit c m.unit = b := by rw [hu, bayOfUnit_ofNat]
  have bay : (s.take (.c c)).bay b = s.bay b := s.take_bay _ _
  cases ho : (s.bay b).occ with
  | unfitted =>
    have body : onCabinet (.c c) outletFaultBody m (s.take (.c c)) = refuse m (s.take (.c c)) .badUnit := by
      simp only [onCabinet, outletFaultBody, hl, unit, bay, ho]
    exact congrArg Host.Outcome.next (State.handle_refuse ht passes body)
  | vacant =>
    have body : onCabinet (.c c) outletFaultBody m (s.take (.c c)) = refuse m (s.take (.c c)) .wrongState := by
      simp only [onCabinet, outletFaultBody, hl, unit, bay, ho]
    exact congrArg Host.Outcome.next (State.handle_refuse ht passes body)
  | session y =>
    have F := State.faultOutlet_spec (s := s.take (.c c)) (b := b) y code (by rw [bay]; exact hr)
    have body : onCabinet (.c c) outletFaultBody m (s.take (.c c)) = done m ((s.take (.c c)).faultOutlet b y code) false := by
      simp only [onCabinet, outletFaultBody, hl, unit, bay, ho]
    have acts : s.handle .outletFault (.c c) (onCabinet (.c c) outletFaultBody) =
        ((s.take (.c c)).faultOutlet b y code).sends (.c c) (m.answer (okResult false)) :=
      State.handle_done ht passes body (by rw [(F.ports _).health]; exact ht.attached)
    refine ⟨_, congrArg Host.Outcome.next acts, ?_, fun a ha => ?_, F.notice, F.ports, F.sset, ?_⟩
    · by_cases hf : ∃ old, y.phase = .fault old
      · rw [if_pos hf]; have h := F.again hf; rw [bay] at h; exact h
      · rw [if_neg hf]; have h := F.first hf; rw [bay] at h; exact h
    · have h := F.others a ha
      rw [State.take_bay] at h
      exact h
    · exact (s.take_frame _).comp F.frame (by simp) (by simp)

end Sys2Proof.Machine
end

section
/-!
PROOFS. PLUG: the tag lookup and the session start (R17 to R19, R131).
-/
namespace Sys2Proof.Machine

/-- A request that forms an answer of its own. -/
theorem State.handle_replies {s u : State} {p : Port} {k : Kind} {m r : Msg} {body : Msg → State → State × Option Msg}
    (h : s.Takes p k m) (hp : k.Passes p m) (hb : body m (s.take p) = (u, some r)) (hu : (u.port p).health ≠ .detached) :
    s.handle k p body = u.sends p r := by
  rw [State.handle_pass body h hp.port hp.length hp.unit, hb]
  exact State.reply_eq_sends _ hu

/-- The bytes of a PLUG's answer (R108, R131). -/
theorem plugAnswer_eq {m : Msg} (hk : m.kind = 0x11) (v : Nat) (d : Disposition) : plugAnswer m (maxPower < v) d =
    { kind := 0x80, unit := m.unit, payload := [0x11, if 1500 < v then 0x10 else 0x00, 0x00, BitVec.ofNat 8 d.code] } := by
  rw [plugAnswer, answerTo, hk]
  by_cases h : 1500 < v
  · rw [if_pos h, decide_eq_true (show maxPower < v from h)]; rfl
  · rw [if_neg h, decide_eq_false (show ¬ maxPower < v from h)]; rfl

theorem Entry.pluggedElsewhere_iff {e : Entry} {b : Fin 32} :
    e.pluggedElsewhere b = true ↔ ∃ a x, e.state = .plugged a x ∧ a ≠ b := by
  cases h : e.state <;> simp [Entry.pluggedElsewhere, h]

/-- The end of the bay's session, where it has one, leaves ports, pass and settings alone. -/
theorem State.endSession_ports_pass (s : State) (b : Fin 32) :
    (s.endSession b).ports = s.ports ∧ (s.endSession b).alloc.snap = s.alloc.snap ∧
      (s.endSession b).settings = s.settings := by
  cases h : (s.bay b).session with
  | none => rw [State.endSession_none h]; exact ⟨rfl, rfl, rfl⟩
  | some x =>
    have f := (State.endSession_spec h).frame
    exact ⟨f .ports (by simp), f .pass (by simp), f .settings (by simp)⟩

theorem plugBody_refused {c : Fin 4} {m : Msg} {s : State} {t2 t1 t0 p1 p0 : Byte} (hl : m.payload = [t2, t1, t0, p1, p0])
    (h : (s.bay (bayOfUnit c m.unit)).occ = .unfitted) : plugBody c m s = refuse m s .badUnit := by
  simp only [plugBody, hl, h, if_true]

theorem plugBody_starts {c : Fin 4} {m : Msg} {s : State} {t2 t1 t0 p1 p0 : Byte} (hl : m.payload = [t2, t1, t0, p1, p0])
    (h : (s.bay (bayOfUnit c m.unit)).occ ≠ .unfitted) : plugBody c m s =
      ((((s.endSession (bayOfUnit c m.unit)).startSession (bayOfUnit c m.unit) (fieldTag t2 t1 t0)
        (min maxPower (field16 p1 p0)))).1, some (plugAnswer m (maxPower < field16 p1 p0)
          ((s.endSession (bayOfUnit c m.unit)).startSession (bayOfUnit c m.unit) (fieldTag t2 t1 t0)
            (min maxPower (field16 p1 p0))).2)) := by
  simp only [plugBody, hl, h, if_false]

/-- Settles O21. -/
theorem plugStartsASession : Obligations.PlugStartsASession := by
  intro s c m o t2 t1 t0 p1 p0 ht hu hl b tag v
  have passes : Kind.plug.Passes (.c c) m := Kind.passes_outlet rfl (by rw [hl]; rfl) hu (by decide)
  have unit : bayOfUnit c m.unit = b := by rw [hu, bayOfUnit_ofNat]
  have bay : (s.take (.c c)).bay b = s.bay b := s.take_bay _ _
  refine ⟨fun h => ?_, fun h => ?_⟩
  · have body : onCabinet (.c c) plugBody m (s.take (.c c)) = refuse m (s.take (.c c)) .badUnit :=
      plugBody_refused hl (by rw [unit, bay]; exact h)
    exact congrArg Host.Outcome.next (State.handle_refuse ht passes body)
  · have body := plugBody_starts (c := c) (s := s.take (.c c)) hl (by rw [unit, bay]; exact h)
    have ended : match (s.bay b).session with
        | some x => SessionEnds (s.take (.c c)) ((s.take (.c c)).endSession b) b x
        | none => (s.take (.c c)).endSession b = s.take (.c c) := by
      cases hs : (s.bay b).session with
      | none => exact State.endSession_none (by rw [bay]; exact hs)
      | some x => exact State.endSession_spec (by rw [bay]; exact hs)
    obtain ⟨ports, snap, settings⟩ := (s.take (.c c)).endSession_ports_pass b
    rw [unit] at body
    generalize (s.take (.c c)).endSession b = s1 at ended body ports snap settings
    have S := State.startSession_spec s1 b tag (min maxPower v)
    rw [plugAnswer_eq ht.2] at body
    generalize hu' : s1.startSession b tag (min maxPower v) = r at S
    rw [hu'] at body
    have attached : (r.1.port (.c c)).health ≠ .detached := by
      rw [S.frame.port (by simp), State.port, ports]; exact ht.attached
    have acts := State.handle_replies (body := onCabinet (.c c) plugBody) ht passes body attached
    have snap' : s1.alloc.snap = s.alloc.snap := snap
    refine ⟨s1, r.1, r.2, ended, congrArg Host.Outcome.next acts, ?_, S.bays, ⟨fun k e hf hb => ?_, fun k e a x hf hb hp hab => ?_,
      fun k e hf hb hp => ?_, fun hn => ?_⟩, fun a => ?_, S.dset, S.sset, S.frame⟩
    · exact S.bay
    · exact S.refused k e (State.lookup_eq_some.mpr hf) hb
    · exact S.duplicate k e (State.lookup_eq_some.mpr hf) hb (Entry.pluggedElsewhere_iff.mpr ⟨a, x, hp, hab⟩)
    · have here : e.pluggedElsewhere b = false := by
        rw [Bool.eq_false_iff, Ne, Entry.pluggedElsewhere_iff]
        rintro ⟨a, x, ha, hab⟩
        exact hab (hp a x ha)
      exact S.rostered k e (State.lookup_eq_some.mpr hf) hb here
    · have none : s1.lookup tag = none := by
        cases hl : s1.lookup tag with
        | none => rfl
        | some z => exact absurd (State.lookup_eq_some.mp hl) (hn z.1 z.2)
      have h := S.unknown none
      rw [settings] at h
      exact h
    · have h := S.marks a
      rw [snap'] at h
      exact h

end Sys2Proof.Machine
end

section
/-!
PROOFS. OUTLETS: the eight bays of a cabinet, one after the other (R4, R129).
-/
namespace Sys2Proof.Machine

/-- One outlet of an accepted list (R4): fitted with the cap it is listed with, or unfitted. -/
def State.outlet (s : State) (c : Fin 4) (l : List (Byte × Nat)) (o : Fin 8) : State :=
  match listedCap l o with
  | some cap => s.fitOutlet (bayAt c o) cap
  | none => s.unfitOutlet (bayAt c o)

theorem State.applyOutlets_eq (s : State) (c : Fin 4) (l : List (Byte × Nat)) :
    s.applyOutlets c l = allOutlets.foldl (fun t o => t.outlet c l o) s := rfl

theorem mem_allOutlets (o : Fin 8) : o ∈ allOutlets := by revert o; decide

theorem State.outlet_done (s : State) (c : Fin 4) (l : List (Byte × Nat)) (o : Fin 8)
    (h : (s.bay (bayAt c o)).reachable = true) : OutletDone s (s.outlet c l o) (bayAt c o) (listedCap l o) :=
  outletDone_spec s (bayAt c o) (listedCap l o) h

theorem State.outlet_marks (s : State) (c : Fin 4) (l : List (Byte × Nat)) (o : Fin 8)
    (h : (s.bay (bayAt c o)).reachable = true) :
    (∀ a, (s.outlet c l o).marked a = true ↔ s.marked a = true ∨ (s.alloc.snap.isSome = true ∧ a = bayAt c o ∧
      ((s.bay (bayAt c o)).occ = .unfitted ↔ (listedCap l o).isSome = true))) ∧
    (¬ (listedCap l o = none ∧ (s.bay (bayAt c o)).inSession = true) →
      (s.outlet c l o).pendingInc (bayAt c o) = s.pendingInc (bayAt c o)) :=
  ⟨(outletDone_marks s (bayAt c o) (listedCap l o) h).1, (outletDone_marks s (bayAt c o) (listedCap l o) h).2.1⟩

/-! ### The walk over the outlets -/

/-- Bay `b`'s own turn of a walk from `s` to `t`: it goes from `u` to `v`, where what concerns the bay is in `u` as in `s` and
in `t` as in `v`. -/
structure OutletTurn (s t : State) (b : Fin 32) (cap : Option Nat) (u v : State) : Prop where
  turn : OutletDone u v b cap
  bay : u.bay b = s.bay b
  board : u.board b = s.board b
  settings : u.settings = s.settings
  clock : u.clock = s.clock
  entry : ∀ k, s.namedSlot b = some k → u.entry k = s.entry k
  bayAfter : t.bay b = v.bay b
  boardAfter : t.board b = v.board b
  increaseAfter : t.pendingInc b = v.pendingInc b
  entryAfter : ∀ k, s.namedSlot b = some k → t.entry k = v.entry k

section
variable {s t u v : State} {b : Fin 32}

theorem OutletTurn.stays_unfitted (h : OutletTurn s t b none u v) (ho : (s.bay b).occ = .unfitted) :
    t.bay b = s.bay b ∧ t.board b = s.board b := by
  have d := h.turn.unlisted rfl
  simp only [h.bay, ho] at d
  exact ⟨h.bayAfter.trans d.1, h.boardAfter.trans (d.2.trans h.board)⟩

theorem OutletTurn.unfits (h : OutletTurn s t b none u v) (ho : (s.bay b).occ = .vacant) :
    t.bay b = { s.bay b with occ := .unfitted, pcap := 0 } ∧ t.board b = s.board b := by
  have d := h.turn.unlisted rfl
  simp only [h.bay, ho] at d
  exact ⟨h.bayAfter.trans d.1, h.boardAfter.trans (d.2.trans h.board)⟩

theorem OutletTurn.ends {y : Session} (h : OutletTurn s t b none u v) (ho : (s.bay b).occ = .session y) :
    t.bay b = { s.bay b with occ := .unfitted, pcap := 0, published := 0, seq := 0, confirmed := 0, unconfirmed := 0 } ∧
    t.board b = none ∧ t.pendingInc b = none ∧
    ∀ k e, y.disp = .rostered k → s.entry k = some e → t.entry k = some { e with
      state := if s.clock.minute < e.departure then .waiting else .departed, lastEnergy := some y.delivered } := by
  have d := h.turn.unlisted rfl
  simp only [h.bay, ho] at d
  obtain ⟨bay, board, increase, entry⟩ := d
  refine ⟨h.bayAfter.trans bay, h.boardAfter.trans board, h.increaseAfter.trans increase, fun k e hd he => ?_⟩
  have named : s.namedSlot b = some k := namedSlot_of (Bay.session_eq_some.mpr ho) hd
  rw [h.entryAfter k named, entry k e hd ((h.entry k named).trans he), h.clock]

end

/-- What the walk over the outlets `os` of a cabinet leaves (R4). -/
structure OutletWalk (s t : State) (c : Fin 4) (l : List (Byte × Nat)) (os : List (Fin 8)) : Prop where
  turns : ∀ o ∈ os, ∃ u v, OutletTurn s t (bayAt c o) (listedCap l o) u v
  kept : ∀ b, (∀ o ∈ os, b ≠ bayAt c o) → t.bay b = s.bay b ∧ t.board b = s.board b
  increases : ∀ b, (∀ o ∈ os, b = bayAt c o → ¬ (listedCap l o = none ∧ (s.bay b).inSession = true)) →
    t.pendingInc b = s.pendingInc b
  entries : ∀ k, (∀ o ∈ os, listedCap l o = none → s.namedSlot (bayAt c o) ≠ some k) → t.entry k = s.entry k
  marks : ∀ b, t.marked b = true ↔ s.marked b = true ∨ (s.alloc.snap.isSome = true ∧
    ∃ o ∈ os, b = bayAt c o ∧ ((s.bay b).occ = .unfitted ↔ (listedCap l o).isSome = true))
  ports : ∀ p, LinkPort.Kicked (s.port p) (t.port p)
  dset : NoticeSet.SameBut 0x0003 s.dset t.dset
  sset : NoticeSet.SameBut 0x0021 s.sset t.sset
  frame : SameBut [.bays, .roster, .marks, .increases, .board, .ports, .dset, .sset] s t

theorem OutletWalk.nil (s : State) (c : Fin 4) (l : List (Byte × Nat)) : OutletWalk s s c l [] :=
  ⟨by simp, by simp, by simp, by simp, by simp, fun _ => .refl _, .refl _ _, .refl _ _, .refl _ _⟩

/-- A turn stays what it was when another bay of the cabinet has its own. -/
theorem OutletTurn.after {s t t' u v : State} {c : Fin 4} {o o' : Fin 8} {cap cap' : Option Nat} (hR : s.RosterOk)
    (h : OutletTurn s t (bayAt c o) cap u v) (h' : OutletDone t t' (bayAt c o') cap')
    (hbay : t.bay (bayAt c o') = s.bay (bayAt c o')) (hne : o ≠ o') : OutletTurn s t' (bayAt c o) cap u v := by
  have hb : bayAt c o ≠ bayAt c o' := fun e => hne (bayAt_inj c o o' e)
  obtain ⟨obay, oboard, oinc⟩ := h'.others _ hb
  refine { h with
    bayAfter := obay.trans h.bayAfter, boardAfter := oboard.trans h.boardAfter, increaseAfter := oinc.trans h.increaseAfter
    entryAfter := fun k hk => (h'.entries k fun _ => ?_).trans (h.entryAfter k hk) }
  rw [namedSlot_congr (congrArg Bay.disp hbay)]
  exact fun hk' => hb (roster_unique hR hk hk')

theorem OutletWalk.snoc {s t : State} {c : Fin 4} {l : List (Byte × Nat)} {os : List (Fin 8)} {o : Fin 8} (hR : s.RosterOk)
    (hr : ∀ b, cabinetOf b = c → (s.bay b).reachable = true) (ho : o ∉ os) (h : OutletWalk s t c l os) :
    OutletWalk s (t.outlet c l o) c l (os ++ [o]) := by
  have unvisited : ∀ o' ∈ os, bayAt c o ≠ bayAt c o' := fun o' ho' e => ho (bayAt_inj c o o' e ▸ ho')
  obtain ⟨hbay, hboard⟩ := h.kept _ unvisited
  have slot : t.namedSlot (bayAt c o) = s.namedSlot (bayAt c o) := namedSlot_congr (congrArg Bay.disp hbay)
  have reach : (t.bay (bayAt c o)).reachable = true := by rw [hbay]; exact hr _ (bay_cab c o)
  have D := t.outlet_done c l o reach
  obtain ⟨marked, increase⟩ := t.outlet_marks c l o reach
  refine ⟨fun o' ho' => ?_, fun b hb => ?_, fun b hb => ?_, fun k hk => ?_, fun b => ?_, fun p => (h.ports p).trans (D.ports p),
    h.dset.trans D.dset, h.sset.trans D.sset, h.frame.trans D.frame⟩
  · rcases List.mem_append.mp ho' with hm | hm
    · obtain ⟨u, v, T⟩ := h.turns o' hm
      exact ⟨u, v, T.after hR D hbay fun e => ho (e ▸ hm)⟩
    · obtain rfl : o' = o := by simpa using hm
      refine ⟨t, t.outlet c l o', D, hbay, hboard, h.frame .settings (by simp), h.frame .clock (by simp), fun k hk => ?_,
        rfl, rfl, rfl, fun _ _ => rfl⟩
      exact h.entries k fun o hm _ hk' => unvisited o hm (roster_unique hR hk hk')
  · obtain ⟨kbay, kboard⟩ := h.kept b fun o' ho' => hb o' (by simp [ho'])
    obtain ⟨obay, oboard, -⟩ := D.others b (hb o (by simp))
    exact ⟨obay.trans kbay, oboard.trans kboard⟩
  · have before : t.pendingInc b = s.pendingInc b := h.increases b fun o' ho' => hb o' (by simp [ho'])
    by_cases e : b = bayAt c o
    · have hn := hb o (by simp) e
      subst e
      exact (increase (by rw [hbay]; exact hn)).trans before
    · exact ((D.others b e).2.2).trans before
  · have before : t.entry k = s.entry k := h.entries k fun o' ho' => hk o' (by simp [ho'])
    exact (D.entries k (by rw [slot]; exact hk o (by simp))).trans before
  · have hs : t.alloc.snap = s.alloc.snap := h.frame .pass (by simp)
    rw [marked, h.marks, hs, hbay]
    simp only [List.mem_append, List.mem_singleton]
    constructor
    · rintro ((hm | ⟨hp, o', ho', rest⟩) | ⟨hp, e, rest⟩)
      · exact .inl hm
      · exact .inr ⟨hp, o', .inl ho', rest⟩
      · exact .inr ⟨hp, o, .inr rfl, e, e ▸ rest⟩
    · rintro (hm | ⟨hp, o', ho' | rfl, e, rest⟩)
      · exact .inl (.inl hm)
      · exact .inl (.inr ⟨hp, o', ho', e, rest⟩)
      · exact .inr ⟨hp, e, e ▸ rest⟩

theorem State.applyOutlets_spec {s : State} {c : Fin 4} (l : List (Byte × Nat)) (hR : s.RosterOk)
    (hr : ∀ b, cabinetOf b = c → (s.bay b).reachable = true) : OutletWalk s (s.applyOutlets c l) c l allOutlets := by
  rw [State.applyOutlets_eq]
  exact foldl_prefix (P := fun os t => OutletWalk s t c l os) (.nil s c l) (fun _ _ _ ho h => h.snoc hR hr ho) allOutlets
    (by decide)

/-! ### The message (R129) -/

theorem outletsBody_refused {c : Fin 4} {m : Msg} {s : State} (h : outletsOk (outletRecords m.payload) = false) :
    outletsBody c m s = refuse m s .badUnit := by
  simp only [outletsBody, h, Bool.false_eq_true, if_false]

theorem outletsBody_accepted {c : Fin 4} {m : Msg} {s : State} (h : outletsOk (outletRecords m.payload) = true) :
    outletsBody c m s = done m (s.applyOutlets c (outletRecords m.payload)) (capsClamped (outletRecords m.payload)) := by
  simp only [outletsBody, h, if_true]

theorem okResult_capsClamped (l : List (Byte × Nat)) :
    okResult (capsClamped l) = if ∃ r ∈ l, 1500 < r.2 then Flag.clamped.result else 0 := by
  simp only [okResult, capsClamped, List.any_eq_true, decide_eq_true_eq]
  rfl

/-- An outlet of an accepted list is listed exactly where a record names it. -/
theorem listedCap_isSome_iff {l : List (Byte × Nat)} (hn : (l.map (·.1)).Nodup) (o : Fin 8) :
    (listedCap l o).isSome = true ↔ ∃ r ∈ l, r.1.toNat = o.val := by
  by_cases h : ∃ r ∈ l, r.1.toNat = o.val
  · obtain ⟨r, hr, ho⟩ := h
    rw [listedCap_some hn hr ho]
    exact ⟨fun _ => ⟨r, hr, ho⟩, fun _ => rfl⟩
  · rw [listedCap_none fun r hr ho => h ⟨r, hr, ho⟩]
    exact ⟨fun x => absurd x (by simp), fun x => absurd x h⟩

theorem listedCap_none_iff {l : List (Byte × Nat)} (hn : (l.map (·.1)).Nodup) (o : Fin 8) :
    listedCap l o = none ↔ ∀ r ∈ l, r.1.toNat ≠ o.val := by
  rw [← Option.not_isSome_iff_eq_none, listedCap_isSome_iff hn]
  simp

/-- Settles O20. -/
theorem outletsFitAndUnfit : Obligations.OutletsFitAndUnfit := by
  intro s c m ht hu hlen hmod hr hR l
  have passes : Kind.outlets.Passes (.c c) m := ⟨rfl, by simp [Kind.lengthOk, hlen, hmod], by rw [hu]; rfl⟩
  refine ⟨fun hbad => ?_, fun hrange hn => ?_⟩
  · have bad : outletsOk l = false := by
      rw [Bool.eq_false_iff, Ne, outletsOk_iff]
      rintro ⟨hrange, hn⟩
      rcases hbad with ⟨r, hr, h8⟩ | hdup
      · exact absurd (hrange r hr) (by omega)
      · exact hdup hn
    have body : onCabinet (.c c) outletsBody m (s.take (.c c)) = refuse m (s.take (.c c)) .badUnit := outletsBody_refused bad
    exact congrArg Host.Outcome.next (State.handle_refuse ht passes body)
  · have body : onCabinet (.c c) outletsBody m (s.take (.c c)) = done m ((s.take (.c c)).applyOutlets c l) (capsClamped l) :=
      outletsBody_accepted ((outletsOk_iff l).mpr ⟨hrange, hn⟩)
    have W := State.applyOutlets_spec (s := s.take (.c c)) (c := c) l
      (rosterOk_of_books (s.take_frame _) (by simp) (by simp) hR) (fun b hb => by rw [State.take_bay]; exact hr b hb)
    generalize (s.take (.c c)).applyOutlets c l = u at W body
    have acts := State.handle_done (body := onCabinet (.c c) outletsBody) ht passes body
      (by rw [(W.ports _).health]; exact ht.attached)
    rw [okResult_capsClamped] at acts
    have none_iff : ∀ o : Fin 8, listedCap l o = none ↔ ∀ r ∈ l, r.1.toNat ≠ (bayAt c o).val % 8 := fun o => by
      rw [bay_out]; exact listedCap_none_iff hn o
    refine ⟨u, congrArg Host.Outcome.next acts, fun b hb => ?_, fun b r hb hl ho => ?_, fun b hb hl => ?_, fun b hb => ?_,
      fun b => ?_, fun k hk => ?_, W.ports, W.dset, W.sset, W.frame⟩
    · have h := W.kept b fun o _ e => hb (e ▸ bay_cab c o)
      rw [State.take_bay] at h
      exact h
    · obtain ⟨o, rfl⟩ : ∃ o, b = bayAt c o := ⟨_, bay_ex c b hb⟩
      rw [bay_out] at ho
      obtain ⟨v, w, T⟩ := W.turns o (mem_allOutlets o)
      have h := T.turn.listed _ (listedCap_some hn hl ho)
      rw [T.bay, T.board, T.settings, State.take_bay, ← T.bayAfter, ← T.boardAfter] at h
      exact h
    · obtain ⟨o, rfl⟩ : ∃ o, b = bayAt c o := ⟨_, bay_ex c b hb⟩
      obtain ⟨v, w, T⟩ := W.turns o (mem_allOutlets o)
      rw [(none_iff o).mpr hl] at T
      have bay : (s.take (.c c)).bay (bayAt c o) = s.bay (bayAt c o) := s.take_bay _ _
      cases ho : (s.bay (bayAt c o)).occ with
      | unfitted =>
        simp only [ho]
        have h := T.stays_unfitted (by rw [bay]; exact ho)
        rw [bay] at h
        exact h
      | vacant =>
        simp only [ho]
        have h := T.unfits (by rw [bay]; exact ho)
        rw [bay] at h
        exact h
      | session y =>
        simp only [ho]
        have h := T.ends (by rw [bay]; exact ho)
        rw [bay] at h
        exact h
    · refine W.increases b fun o _ e hc => hb ?_
      subst e
      rw [State.take_bay] at hc
      exact ⟨bay_cab c o, hc.2, (none_iff o).mp hc.1⟩
    · rw [W.marks, State.take_bay]
      refine or_congr Iff.rfl (and_congr Iff.rfl ⟨?_, ?_⟩)
      · rintro ⟨o, -, rfl, h⟩
        rw [listedCap_isSome_iff hn, ← bay_out c o] at h
        exact ⟨bay_cab c o, h⟩
      · rintro ⟨hb, h⟩
        obtain ⟨o, rfl⟩ : ∃ o, b = bayAt c o := ⟨_, bay_ex c b hb⟩
        rw [bay_out, ← listedCap_isSome_iff hn] at h
        exact ⟨o, mem_allOutlets o, rfl, h⟩
    · refine W.entries k fun o _ hcap => ?_
      exact hk _ (bay_cab c o) ((none_iff o).mp hcap)

end Sys2Proof.Machine
end

section
/-!
PROOFS. METER of an occupied outlet in session: the cut, the applied fields, the SATISFIED check (R20, R21, R90, R91, R93, R133).
-/
namespace Sys2Proof.Machine

/-! ### Steps that act on one bay and its board place -/

/-- From `s` to `t`, bay `b` takes the record `x` and its board place holds `e`; no other bay changes. -/
structure BayStep (s t : State) (b : Fin 32) (x : Bay) (e : Option (Nat × Seq)) : Prop where
  bay : t.bay b = x
  board : t.board b = e
  others : ∀ a, a ≠ b → t.bay a = s.bay a ∧ t.board a = s.board a
  ports : ∀ p, LinkPort.Kicked (s.port p) (t.port p)
  sset : NoticeSet.SameBut 0x0021 s.sset t.sset
  frame : SameBut [.bays, .board, .ports, .sset] s t

theorem BayStep.trans {s t u : State} {b : Fin 32} {x x' : Bay} {e e' : Option (Nat × Seq)} (h : BayStep s t b x e)
    (h' : BayStep t u b x' e') : BayStep s u b x' e' where
  bay := h'.bay
  board := h'.board
  others a ha := ⟨(h'.others a ha).1.trans (h.others a ha).1, (h'.others a ha).2.trans (h.others a ha).2⟩
  ports p := (h.ports p).trans (h'.ports p)
  sset := h.sset.trans h'.sset
  frame := h.frame.trans h'.frame

theorem BayStep.refl (s : State) (b : Fin 32) : BayStep s s b (s.bay b) (s.board b) :=
  ⟨rfl, rfl, fun _ _ => ⟨rfl, rfl⟩, fun _ => .refl _, .refl _ _, .refl _ _⟩

theorem Publishes.step {s t : State} {b : Fin 32} {v : Nat} (h : Publishes s t b v) :
    BayStep s t b { s.bay b with published := v, seq := (s.bay b).seq + 1 } (some (v, (s.bay b).seq + 1)) :=
  ⟨h.bay, h.board, fun a ha => ⟨h.bays a ha, h.boards a ha⟩, h.ports, h.sset.mono (by decide), h.frame⟩

theorem State.setBay_step (s : State) (b : Fin 32) (x : Bay) : BayStep s (s.setBay b x) b x (s.board b) :=
  ⟨by simp, rfl, fun a ha => ⟨by simp [ha], rfl⟩, fun _ => .refl _, .refl _ _, (s.setBay_frame b x).mono (by simp)⟩

theorem State.adopt_step (s : State) (b : Fin 32) (value : Nat) (q : Byte) : BayStep s (s.adopt b value q) b
    { s.bay b with published := min maxPower value, confirmed := min maxPower value, seq := BitVec.ofNat 3 q.toNat
                   unconfirmed := 0, resync := false } none := by
  have h := s.adopt_spec b value q
  exact ⟨h.bay, h.board, fun a ha => ⟨h.bays a ha, h.boards a ha⟩, fun p => by rw [h.frame.port (by simp)]; exact .refl _,
    h.sset, h.frame.mono (by simp)⟩

theorem State.confirm_step {s : State} {b : Fin 32} (q : Byte) (hin : (s.bay b).inSession = true) :
    BayStep s (s.confirm b q) b
      { s.bay b with confirmed := if q.toNat = (s.bay b).seq.toNat then (s.bay b).published else (s.bay b).confirmed
                     unconfirmed := if q.toNat = (s.bay b).seq.toNat then 0 else (s.bay b).unconfirmed } (s.board b) := by
  by_cases hq : q.toNat = (s.bay b).seq.toNat
  · have h := State.confirm_spec hin hq
    simp only [if_pos hq]
    exact ⟨h.bay, h.frame.boardAt (by simp) b, fun a ha => ⟨h.bays a ha, h.frame.boardAt (by simp) a⟩,
      fun p => by rw [h.frame.port (by simp)]; exact .refl _, h.sset, h.frame.mono (by simp)⟩
  · rw [State.confirm_ignored fun h => hq h.2]
    simp only [if_neg hq]
    exact .refl s b

/-! ### The cut (R93) -/

/-- A setpoint and sequence after the vehicle-limit publication, and whether one was made (R93). -/
def cutAt (pmin plim : Nat) (z : Nat × Seq × Bool) : Nat × Seq × Bool :=
  if plim < z.1 then (cutTo pmin plim, z.2.1 + 1, true) else z

theorem State.limitVehicle_step {s : State} {b : Fin 32} (hr : (s.bay b).reachable = true)
    (hin : (s.bay b).inSession = true) :
    let z := cutAt s.settings.pminInForce (s.bay b).plim ((s.bay b).published, (s.bay b).seq, false)
    BayStep s (s.limitVehicle b) b { s.bay b with published := z.1, seq := z.2.1 }
      (if z.2.2 then some (z.1, z.2.1) else s.board b) := by
  have h := State.limitVehicle_spec hr
  by_cases hc : (s.bay b).plim < (s.bay b).published
  · rw [if_pos ⟨hin, hc⟩] at h
    simp only [cutAt, hc, if_true]
    exact h.step
  · rw [if_neg fun x => hc x.2] at h
    simp only [cutAt, hc, if_false, Bool.false_eq_true]
    rw [h]
    exact .refl s b

/-! ### A resync METER (R91) -/

theorem State.restore_step {s : State} {b : Fin 32} (earlier : Nat) (hr : (s.bay b).reachable = true) :
    BayStep s (s.restore b earlier) b
      { s.bay b with published := if s.mode ≠ .run ∧ earlier < (s.bay b).published then earlier else (s.bay b).published
                     seq := if s.mode ≠ .run ∧ earlier < (s.bay b).published then (s.bay b).seq + 1 else (s.bay b).seq }
      (if s.mode ≠ .run ∧ earlier < (s.bay b).published then some (earlier, (s.bay b).seq + 1) else s.board b) := by
  unfold State.restore
  by_cases hc : s.mode ≠ .run ∧ earlier < (s.bay b).published
  · simp only [if_pos hc]
    exact (State.publish_spec earlier hr).step
  · simp only [if_neg hc]
    exact .refl s b

/-- The setpoint, sequence and publication that a resync METER ends with: the adopted value, cut, and outside RUN brought back
to the earlier one (R91). -/
def resyncAt (mode : Mode) (pmin plim earlier applied : Nat) (q : Byte) : Nat × Seq × Bool :=
  let adopted := cutAt pmin plim (applied, BitVec.ofNat 3 q.toNat, false)
  if mode ≠ .run ∧ earlier < adopted.1 then (earlier, adopted.2.1 + 1, true) else adopted

theorem State.resync_step {s : State} {b : Fin 32} (value : Nat) (q : Byte) (hr : (s.bay b).reachable = true)
    (hin : (s.bay b).inSession = true) :
    let z := resyncAt s.mode s.settings.pminInForce (s.bay b).plim (s.bay b).published (min maxPower value) q
    BayStep s (s.resync b value q) b { s.bay b with published := z.1, seq := z.2.1, confirmed := min maxPower value
                                                    unconfirmed := 0, resync := false }
      (if z.2.2 then some (z.1, z.2.1) else none) := by
  have adopt := s.adopt_step b value q
  have cut := State.limitVehicle_step (s := s.adopt b value q) (b := b) (by rw [adopt.bay]; exact hr)
    (by rw [adopt.bay]; exact hin)
  rw [adopt.bay, adopt.board, adopt.frame .settings (by simp)] at cut
  unfold resyncAt
  generalize hz : cutAt s.settings.pminInForce (s.bay b).plim (min maxPower value, BitVec.ofNat 3 q.toNat, false) = z
  have cut' : BayStep (s.adopt b value q) ((s.adopt b value q).limitVehicle b) b
      { s.bay b with published := z.1, seq := z.2.1, confirmed := min maxPower value, unconfirmed := 0, resync := false }
      (if z.2.2 then some (z.1, z.2.1) else none) := hz ▸ cut
  have restore := State.restore_step (s := (s.adopt b value q).limitVehicle b) (b := b) (s.bay b).published
    (by rw [cut'.bay]; exact hr)
  rw [cut'.bay, cut'.board, show ((s.adopt b value q).limitVehicle b).mode = s.mode from
    (adopt.frame.trans cut'.frame) .mode (by simp)] at restore
  have all := (adopt.trans cut').trans restore
  by_cases hc : s.mode ≠ .run ∧ (s.bay b).published < z.1
  · simp only [if_pos hc] at all ⊢
    exact all
  · simp only [if_neg hc] at all ⊢
    exact all

/-! ### A METER's fields (R20) -/

section
variable {s : State} {b : Fin 32} {y : Session} {f : MeterFields}

/-- The energy, the power and the vehicle limit of a METER are taken, and the cut made. -/
theorem State.metered_step (hr : (s.bay b).reachable = true) :
    let z := cutAt s.settings.pminInForce (min (min maxPower f.pveh) (s.bay b).pcap) ((s.bay b).published, (s.bay b).seq, false)
    BayStep s ((s.setBay b { s.bay b with occ := .session (y.metered f) }).limitVehicle b) b
      { s.bay b with occ := .session (y.metered f), published := z.1, seq := z.2.1 }
      (if z.2.2 then some (z.1, z.2.1) else s.board b) := by
  have set := s.setBay_step b { s.bay b with occ := .session (y.metered f) }
  have cut := State.limitVehicle_step (s := s.setBay b { s.bay b with occ := .session (y.metered f) }) (b := b)
    (by rw [set.bay]; exact hr) (by rw [set.bay]; rfl)
  rw [set.bay] at cut
  exact set.trans cut

/-- Without resync, the applied fields confirm (R90). -/
theorem State.takeApplied_confirms (hr : (s.bay b).reachable = true) (hn : (s.bay b).resync = false) :
    let z := cutAt s.settings.pminInForce (min (min maxPower f.pveh) (s.bay b).pcap) ((s.bay b).published, (s.bay b).seq, false)
    BayStep s (((s.setBay b { s.bay b with occ := .session (y.metered f) }).limitVehicle b).takeApplied b f) b
      { s.bay b with occ := .session (y.metered f), published := z.1, seq := z.2.1
                     confirmed := if f.seq.toNat = z.2.1.toNat then z.1 else (s.bay b).confirmed
                     unconfirmed := if f.seq.toNat = z.2.1.toNat then 0 else (s.bay b).unconfirmed }
      (if z.2.2 then some (z.1, z.2.1) else s.board b) := by
  intro z
  have before := State.metered_step (s := s) (b := b) (y := y) (f := f) hr
  generalize (s.setBay b { s.bay b with occ := .session (y.metered f) }).limitVehicle b = t at before ⊢
  have confirm := State.confirm_step (s := t) (b := b) f.seq (by rw [before.bay]; rfl)
  rw [before.bay, before.board] at confirm
  rw [State.takeApplied, if_neg (by rw [before.bay]; simp [hn])]
  exact before.trans confirm

/-- With resync, they are adopted (R91). -/
theorem State.takeApplied_resyncs (hr : (s.bay b).reachable = true) (hn : (s.bay b).resync = true) :
    let plim := min (min maxPower f.pveh) (s.bay b).pcap
    let z := resyncAt s.mode s.settings.pminInForce plim
      (cutAt s.settings.pminInForce plim ((s.bay b).published, (s.bay b).seq, false)).1 (min maxPower f.applied) f.seq
    BayStep s (((s.setBay b { s.bay b with occ := .session (y.metered f) }).limitVehicle b).takeApplied b f) b
      { s.bay b with occ := .session (y.metered f), published := z.1, seq := z.2.1, confirmed := min maxPower f.applied
                     unconfirmed := 0, resync := false }
      (if z.2.2 then some (z.1, z.2.1) else none) := by
  intro plim z
  have before := State.metered_step (s := s) (b := b) (y := y) (f := f) hr
  generalize (s.setBay b { s.bay b with occ := .session (y.metered f) }).limitVehicle b = t at before ⊢
  have resync := State.resync_step (s := t) (b := b) f.applied f.seq (by rw [before.bay]; exact hr) (by rw [before.bay]; rfl)
  rw [before.bay, before.frame .mode (by simp), before.frame .settings (by simp)] at resync
  rw [State.takeApplied, if_pos (by rw [before.bay]; simp [hn])]
  exact before.trans resync

end

/-! ### The message (R133) -/

theorem meterBody_meters {c : Fin 4} {m : Msg} {s : State} {y : Session} {f : MeterFields}
    (hf : meterFields m.payload = some f) (hs : (s.bay (bayOfUnit c m.unit)).session = some y) (ho : f.occupied = true) :
    meterBody c m s = (s.meter (bayOfUnit c m.unit) y f, none) := by
  simp only [meterBody, hf, hs, ho, if_true]

/-- Settles O23. -/
theorem meterUpdatesTheBay : Obligations.MeterUpdatesTheBay := by
  intro s c m o occ d1 d0 w1 w0 p1 p0 a1 a0 q y ht hu hl hocc hs hr b x plim cut first applied adopted final met reached
  have passes : Kind.meter.Passes (.c c) m := Kind.passes_outlet rfl (by rw [hl]; rfl) hu (by decide)
  have unit : bayOfUnit c m.unit = b := by rw [hu, bayOfUnit_ofNat]
  have bay : (s.take (.c c)).bay b = x := s.take_bay _ _
  let f : MeterFields := { occupied := occ != 0, delivered := field16 d1 d0, power := field16 w1 w0, pveh := field16 p1 p0
                           applied := field16 a1 a0, seq := q }
  have body : onCabinet (.c c) meterBody m (s.take (.c c)) = ((s.take (.c c)).meter b y f, none) := by
    rw [← unit]
    exact meterBody_meters (by rw [hl]; rfl) (by rw [unit, bay]; exact hs) (by simpa [f] using hocc)
  have acts := State.handle_silent ht passes body
  have reach : ((s.take (.c c)).bay b).reachable = true := by rw [bay]; exact hr
  have confirms := State.takeApplied_confirms (s := s.take (.c c)) (b := b) (y := y) (f := f) reach
  have resyncs := State.takeApplied_resyncs (s := s.take (.c c)) (b := b) (y := y) (f := f) reach
  rw [State.meter] at acts
  rw [bay] at acts confirms resyncs
  generalize (((s.take (.c c)).setBay b { x with occ := .session (y.metered f) }).limitVehicle b).takeApplied b f = v
    at acts confirms resyncs
  obtain ⟨x', e, V, met'⟩ : ∃ x' e, BayStep (s.take (.c c)) v b x' e ∧ x'.session = some met := by
    cases hn : x.resync with
    | false => exact ⟨_, _, confirms hn, rfl⟩
    | true => exact ⟨_, _, resyncs hn, rfl⟩
  obtain ⟨sbay, sbays, snotice, sdset, sframe⟩ := State.satisfy_spec (s := v) (b := b) (x := met) (by rw [V.bay]; exact met')
  have frame : SameBut [.bays, .board, .ports, .sset] s v := ((s.take_frame _).mono (by simp)).trans V.frame
  have target : v.targetOf met.disp = s.targetOf y.disp := targetOf_congr (frame.entry (by simp)) _
  rw [target] at sbay snotice
  refine ⟨v.satisfy b, congrArg Host.Outcome.next acts, fun hn => ?_, fun hn => ?_, fun a ha => ?_, snotice, fun p => ?_,
    ?_, ?_, ?_⟩
  · have C := confirms hn
    rw [C.bay] at sbay
    exact ⟨sbay, (sframe.boardAt (by simp) b).trans C.board⟩
  · have R := resyncs hn
    rw [R.bay] at sbay
    exact ⟨sbay, (sframe.boardAt (by simp) b).trans R.board⟩
  · obtain ⟨vbay, vboard⟩ := V.others a ha
    exact ⟨(sbays a ha).trans (vbay.trans (s.take_bay _ a)), (sframe.boardAt (by simp) a).trans vboard⟩
  · rw [sframe.port (by simp)]
    exact V.ports p
  · rw [← show v.dset = s.dset from frame .dset (by simp)]
    exact sdset
  · rw [show (v.satisfy b).sset = v.sset from sframe .sset (by simp)]
    exact V.sset
  · exact frame.comp sframe (by simp) (by simp)

end Sys2Proof.Machine
end

section
/-!
PROOFS. The Depot Clock (chapter 2): the idle clock period, minute events and departure evaluations: O2, O43 and O29.
-/
namespace Sys2Proof.Machine

/-! ### One period of the clock input (log 5) -/

/-- A write of the clock. -/
theorem clock_frame (s : State) (x : Clock) : SameBut [.clock] s { s with clock := x } := by
  intro k hk
  cases k with
  | clock => simp at hk
  | _ => rfl

theorem State.tick_idle {s : State} (h : s.resetLow = true ∨ s.dedicated 1 = true) : s.tick = s := by
  refine if_neg fun hc => ?_
  simp only [State.internalBase, Bool.and_eq_true, Bool.not_eq_true'] at hc
  rcases h with h | h
  · rw [hc.1] at h; cases h
  · rw [hc.2] at h; cases h

theorem State.tick_counts {s : State} (hr : s.resetLow = false) (hd : s.dedicated 1 = false) :
    s.tick = { s with clock := { s.clock with fraction := min 7999999 (s.clock.fraction + 1) } } :=
  if_pos (by rw [State.internalBase, hr, hd]; rfl)

/-- Settles O2. -/
theorem emptyQueueCountsOnePeriod : Obligations.EmptyQueueCountsOnePeriod := by
  intro s hq
  have idles : step s = .next s.tick := by simp only [step, hq]
  refine ⟨s.tick, idles, ?_⟩
  by_cases h : s.resetLow = true ∨ s.dedicated 1 = true
  · rw [State.tick_idle h, if_pos h]
    exact ⟨SameBut.refl _ s, rfl, rfl, rfl, rfl⟩
  · rw [if_neg h]
    rw [not_or, Bool.not_eq_true, Bool.not_eq_true] at h
    rw [State.tick_counts h.1 h.2]
    exact ⟨clock_frame s _, rfl, rfl, rfl, rfl⟩

/-! ### Minute events (R28, R30, R32) -/

/-- The roster of `s` is evaluated against shift minute `minute`, the clock reads `x`, and nothing else comes about (R32,
R33). -/
structure Evaluates (s t : State) (x : Clock) (minute : Nat) : Prop where
  clock : t.clock = x
  entries : ∀ j, t.entry j = (s.entry j).map (departed minute)
  dset : NoticeSet.SameBut 0x0001 s.dset t.dset
  frame : SameBut [.clock, .roster, .dset] s t

/-- A departure evaluation right after a write of the clock. -/
theorem State.evaluateDepartures_evaluates (s : State) (x : Clock) :
    Evaluates s (State.evaluateDepartures { s with clock := x }) x x.minute := by
  obtain ⟨entries, dset, frame⟩ := State.evaluateDepartures_spec { s with clock := x }
  exact ⟨frame .clock (by simp), entries, dset, (clock_frame s x).comp frame (by simp) (by simp)⟩

/-- A minute event right after a write of the clock (R28, R30). -/
theorem State.minuteTick_evaluates (s : State) (x : Clock) :
    Evaluates s (State.minuteTick { s with clock := x }) { x with minute := min 4095 (x.minute + 1) }
      (min 4095 (x.minute + 1)) :=
  s.evaluateDepartures_evaluates { x with minute := min 4095 (x.minute + 1) }

/-! The events at the second counter, on the internal time base. -/

section
variable {s : State} (hr : s.resetLow = false) (hd : s.dedicated 1 = false)
include hr hd

theorem clock_runs : (!s.resetLow && s.internalBase) = true := by rw [State.internalBase, hr, hd]; rfl

theorem execSecondComplete_advances (h : s.clock.second < 59) : execSecondComplete s =
    .next { s with clock := { s.clock with second := s.clock.second + 1, fraction := 0, overtaken := false } } := by
  simp only [execSecondComplete, clock_runs hr hd, if_true, h]

theorem execSecondComplete_wraps (h : s.clock.second = 59) : execSecondComplete s =
    .next (State.minuteTick { s with clock := { s.clock with second := 0, fraction := 0, overtaken := false } }) := by
  simp only [execSecondComplete, clock_runs hr hd, if_true, h, Nat.lt_irrefl, if_false, State.wrapSecond]

theorem execMinuteEvent_wraps (h : s.clock.second = 59) : execMinuteEvent s =
    .next (State.minuteTick { s with clock := { s.clock with second := 0, fraction := 0 } }) := by
  simp only [execMinuteEvent, clock_runs hr hd, if_true, h, beq_self_eq_true, State.wrapSecond]

theorem execMinuteEvent_overtaken (h : s.clock.second ≠ 59) (ho : s.clock.overtaken = true) : execMinuteEvent s =
    .next (State.minuteTick { s with clock := { s.clock with overtaken := false } }) := by
  simp only [execMinuteEvent, clock_runs hr hd, if_true, beq_eq_false_iff_ne.mpr h, ho, Bool.false_eq_true, if_false,
    State.overtakenMinute]

theorem execMinuteEvent_none (h : s.clock.second ≠ 59) (ho : s.clock.overtaken = false) : execMinuteEvent s = .next s := by
  simp only [execMinuteEvent, clock_runs hr hd, if_true, beq_eq_false_iff_ne.mpr h, ho, Bool.false_eq_true, if_false]

end

theorem execMinutePulse_ticks {s : State} (hr : s.resetLow = false) (hd : s.dedicated 1 = true) :
    execMinutePulse s = .next (State.minuteTick { s with pins := { s.pins with gp1 := false } }) :=
  congrArg Host.Outcome.next (if_pos (by rw [hr, hd]; rfl))

/-- Settles O43: every event of the clock is a write of the second counter, a minute event, or both. -/
theorem secondsAndMinutesPass : Obligations.SecondsAndMinutesPass := by
  refine ⟨fun s hr hd => ⟨fun h => ?_, fun h c hc => ?_, fun h ho => ?_, fun h ho => ?_⟩, fun s hr hd => ?_⟩
  · exact ⟨_, execSecondComplete_advances hr hd h, clock_frame s _, rfl⟩
  · rcases hc with rfl | rfl
    · have E := s.minuteTick_evaluates { s.clock with second := 0, fraction := 0, overtaken := false }
      exact ⟨_, execSecondComplete_wraps hr hd h, by simpa using E.clock, E.entries, E.dset, E.frame⟩
    · have E := s.minuteTick_evaluates { s.clock with second := 0, fraction := 0 }
      exact ⟨_, execMinuteEvent_wraps hr hd h, by simpa using E.clock, E.entries, E.dset, E.frame⟩
  · have E := s.minuteTick_evaluates { s.clock with overtaken := false }
    exact ⟨_, execMinuteEvent_overtaken hr hd h ho, E.clock, E.entries, E.dset, E.frame⟩
  · exact execMinuteEvent_none hr hd h ho
  · let low : State := { s with pins := { s.pins with gp1 := false } }
    have lows : SameBut [.pins] s low := by
      intro k hk
      cases k with
      | pins => simp at hk
      | _ => rfl
    have E := low.minuteTick_evaluates s.clock
    exact ⟨_, execMinutePulse_ticks hr hd, E.clock, E.entries, E.frame .pins (by simp), E.dset,
      lows.comp E.frame (by simp) (by simp)⟩

/-! ### CLOCK SET (R31) -/

/-- The result of a CLOCK SET of the given fields (R31, R108). -/
theorem okResult_clockSet (n k : Nat) :
    okResult (decide (lastMinute < n) || decide (59 < k)) = if 4095 < n ∨ 59 < k then Flag.clamped.result else 0 := by
  simp only [okResult, Bool.or_eq_true, decide_eq_true_eq]; rfl

/-- The clock a CLOCK SET leaves (R31, R35). -/
def State.clockSetTo (s : State) (minute second : Nat) : Clock where
  minute := minute
  second := if s.dedicated 1 = true then 0 else second
  fraction := 0
  overtaken := decide (s.dedicated 1 = false ∧ (s.clock.second = 59 ∨ s.clock.overtaken = true))

theorem State.setClock_eq (s : State) (minute second : Nat) :
    s.setClock minute second = { s with clock := s.clockSetTo minute second } := by
  have overtakes : (!s.dedicated 1 && (s.clock.second == 59 || s.clock.overtaken)) =
      decide (s.dedicated 1 = false ∧ (s.clock.second = 59 ∨ s.clock.overtaken = true)) := by
    rw [Bool.eq_iff_iff]; simp
  simp only [State.setClock, State.clockSetTo, overtakes]

/-- Settles O29. -/
theorem clockSetSetsAndEvaluates : Obligations.ClockSetSetsAndEvaluates := by
  intro s m m1 m0 sec ht hu hl minute
  have passes : Kind.clockSet.Passes .d m := ⟨rfl, by rw [hl]; rfl, by rw [hu]; rfl⟩
  have E := (s.take .d).evaluateDepartures_evaluates (s.clockSetTo minute (min 59 sec.toNat))
  have body : clockSetBody m (s.take .d) =
      done m (State.evaluateDepartures { s.take .d with clock := s.clockSetTo minute (min 59 sec.toNat) })
        (decide (lastMinute < field16 m1 m0) || decide (59 < sec.toNat)) := by
    simp only [clockSetBody, hl, State.setClock_eq]; rfl
  generalize State.evaluateDepartures _ = u at E body
  have attached : (u.port .d).health ≠ .detached := by rw [E.frame.port (by simp)]; exact ht.attached
  have acts := State.handle_done ht passes body attached
  rw [okResult_clockSet] at acts
  refine ⟨u, congrArg Host.Outcome.next acts, E.clock, fun j => ?_, E.dset, E.frame⟩
  rw [E.entries, State.take_entry]; rfl

end Sys2Proof.Machine
end

section
/-!
PROOFS. PIN SETUP (R151, R172) with its effects on the Depot Clock (R29) and the Envelope Unit (R42): O42.
-/
namespace Sys2Proof.Machine

/-! ### Indicators -/

/-- A condition handed over reads back from its indicator (R166). -/
theorem NoticeSet.setCond_indicator (n : NoticeSet) {bit : Mask} (stands : Bool) (hb : bit ≠ 0) :
    (n.setCond bit stands).cond &&& bit ≠ 0 ↔ stands = true := by
  rw [NoticeSet.setCond_cond]
  cases stands with
  | true =>
    have whole : (n.cond ||| bit) &&& bit = bit := by
      ext i hi; simp only [BitVec.getElem_and, BitVec.getElem_or]; cases n.cond[i] <;> cases bit[i] <;> rfl
    simp only [if_true, whole, hb, ne_eq, not_false_eq_true]
  | false =>
    have empty : n.cond &&& ~~~bit &&& bit = 0 := by
      ext i hi; simp only [BitVec.getElem_and, BitVec.getElem_not]; cases n.cond[i] <;> cases bit[i] <;> simp
    simp only [Bool.false_eq_true, if_false, empty, ne_eq, not_true_eq_false]

/-- An indicator outside the bits that changed reads as before. -/
theorem NoticeSet.SameBut.indicator {bits b : Mask} {n n' : NoticeSet} (h : NoticeSet.SameBut bits n n')
    (hb : b &&& ~~~bits = b) : n'.cond &&& b = n.cond &&& b := by
  have read : ∀ c : Mask, c &&& b = c &&& ~~~bits &&& b := fun c => by
    rw [BitVec.and_assoc, BitVec.and_comm (~~~bits) b, hb]
  rw [read, h.2.2, ← read]

/-! ### The shed handed over (R44, R45, R49) -/

/-- The shed set, SHED ACTIVE handed over and ENVELOPE EXCEEDED evaluated. -/
def State.handShed (s : State) (shed : Bool) : State :=
  ({ s with env := { s.env with shed := shed } }).evalShed.evalExceeded

theorem env_frame (s : State) (x : Envelope) : SameBut [.env] s { s with env := x } := by
  intro k hk
  cases k with
  | env => simp at hk
  | _ => rfl

theorem State.releaseShed_eq (s : State) : s.releaseShed = s.handShed false := rfl

/-- In CONFIGURE a shed assertion halves nothing and requests no round (R44, R78). -/
theorem State.assertShed_configure {s : State} (h : s.mode = .configure) : s.assertShed = s.handShed true := by
  have mode : (s.handShed true).mode = .configure := by simpa [State.handShed] using h
  have halves : s.assertShed = (s.handShed true).requestEarly := by
    simp only [State.assertShed, State.handShed, h, if_true]
  rw [halves]
  exact if_pos mode

/-- What the shed handed over leaves. -/
structure HandsShed (s t : State) (shed : Bool) : Prop where
  env : t.env = { s.env with shed := shed }
  indicator : t.sset.cond &&& SFlag.shedActive.bit ≠ 0 ↔ shed = true
  sset : NoticeSet.SameBut 0x0003 s.sset t.sset
  frame : SameBut [.env, .sset] s t

theorem State.handShed_spec (s : State) (shed : Bool) : HandsShed s (s.handShed shed) shed := by
  have evaluated := (State.evalShed { s with env := { s.env with shed := shed } }).evalExceeded_frame
  have notices : NoticeSet.SameBut SFlag.envelopeExceeded.bit (s.sset.setCond SFlag.shedActive.bit shed)
      (s.handShed shed).sset := by
    simp only [State.handShed, State.evalExceeded_sset, State.evalShed_sset]
    exact NoticeSet.setCond_frame _ _ _
  refine ⟨evaluated .env (by simp), ?_, ?_, ?_⟩
  · rw [notices.indicator (by decide)]
    exact NoticeSet.setCond_indicator _ _ (by decide)
  · exact (NoticeSet.setCond_frame _ _ _).comp notices (by decide) (by decide)
  · exact (env_frame s _).comp ((State.evalShed_frame _).trans evaluated) (by simp) (by simp)

/-! ### PIN SETUP in CONFIGURE (R151, R172) -/

/-! The filters of the pins that become DEDICATED restart from their levels (R173). -/

theorem Pins.setup_gp0 (x : Pins) (fn dir pins : Byte) : (x.setup fn dir pins).gp0 =
    if fn.getLsbD 0 = true ∧ x.fn.getLsbD 0 = false then pins.getLsbD 0 else x.gp0 := by
  simp only [Pins.setup, Bool.and_eq_true, Bool.not_eq_true']

theorem Pins.setup_gp1 (x : Pins) (fn dir pins : Byte) : (x.setup fn dir pins).gp1 =
    if fn.getLsbD 1 = true ∧ x.fn.getLsbD 1 = false then pins.getLsbD 1 else x.gp1 := by
  simp only [Pins.setup, Bool.and_eq_true, Bool.not_eq_true']

/-- The clock after the function mask `fn` is taken: a change of the time base holds it at a second's start (R29). -/
def State.clockUnder (s : State) (fn : Byte) : Clock :=
  if fn.getLsbD 1 = s.dedicated 1 then s.clock else { s.clock with second := 0, fraction := 0, overtaken := false }

/-- The masks taken, with the effect on the clock, and the shed still as it was. -/
def State.withPins (s : State) (fn dir pins : Byte) : State :=
  { s with pins := s.pins.setup fn dir pins, clock := s.clockUnder fn }

theorem State.withPins_frame (s : State) (fn dir pins : Byte) : SameBut [.pins, .clock] s (s.withPins fn dir pins) := by
  intro k hk
  cases k with
  | pins | clock => simp at hk
  | _ => rfl

theorem State.setupPins_eq (s : State) (fn dir pins : Byte) : s.setupPins fn dir pins =
    if fn.getLsbD 0 = s.dedicated 0 then s.withPins fn dir pins
    else if fn.getLsbD 0 = true then
      if pins.getLsbD 0 = true then s.withPins fn dir pins else (s.withPins fn dir pins).assertShed
    else if s.env.shed = true then (s.withPins fn dir pins).releaseShed
    else s.withPins fn dir pins := by
  have clocked : (if fn.getLsbD 1 = s.pins.fn.getLsbD 1 then { s with pins := s.pins.setup fn dir pins }
      else { s with pins := s.pins.setup fn dir pins
                    clock := { s.clock with second := 0, fraction := 0, overtaken := false } }) =
      s.withPins fn dir pins := by
    unfold State.withPins State.clockUnder State.dedicated
    split <;> rfl
  simp only [State.setupPins, clocked, State.dedicated]
  rfl

/-- In CONFIGURE the shed follows GP0 as the new functions read it, and is handed over where it changes (R42). -/
theorem State.setupPins_configure {s : State} (hm : s.mode = .configure) (hE : s.EnvelopeOk) (fn dir pins : Byte) :
    s.setupPins fn dir pins =
      if (fn.getLsbD 0 && !(s.withPins fn dir pins).pins.gp0) = s.env.shed then s.withPins fn dir pins
      else (s.withPins fn dir pins).handShed (fn.getLsbD 0 && !(s.withPins fn dir pins).pins.gp0) := by
  have before : s.env.shed = (s.dedicated 0 && !s.pins.gp0) := by
    rw [Bool.eq_iff_iff, hE.shed]; simp
  have level : (s.withPins fn dir pins).pins.gp0 =
      if fn.getLsbD 0 = true ∧ s.dedicated 0 = false then pins.getLsbD 0 else s.pins.gp0 :=
    Pins.setup_gp0 s.pins fn dir pins
  have asserts : (s.withPins fn dir pins).assertShed = (s.withPins fn dir pins).handShed true :=
    State.assertShed_configure (s := s.withPins fn dir pins) hm
  rw [State.setupPins_eq, asserts, State.releaseShed_eq, level, before]
  cases hf : fn.getLsbD 0 with
  | true =>
    cases hd : s.dedicated 0 with
    | true => simp
    | false => cases hp : pins.getLsbD 0 <;> simp
  | false =>
    cases hd : s.dedicated 0 with
    | true => cases hg : s.pins.gp0 <;> simp
    | false => simp

/-- What a PIN SETUP taken in CONFIGURE leaves (R151, R172, R29, R42). -/
structure SetsPins (s u : State) (fn dir pins : Byte) : Prop where
  pins : u.pins = s.pins.setup fn dir pins
  clock : u.clock = s.clockUnder fn
  env : u.env = { s.env with shed := fn.getLsbD 0 && !u.pins.gp0 }
  indicator : u.env.shed ≠ s.env.shed → (u.sset.cond &&& SFlag.shedActive.bit ≠ 0 ↔ u.env.shed = true)
  sset : NoticeSet.SameBut 0x0003 s.sset u.sset
  frame : SameBut [.pins, .clock, .env, .sset] s u

theorem State.setupPins_spec {s : State} (hm : s.mode = .configure) (hE : s.EnvelopeOk) (fn dir pins : Byte) :
    SetsPins s (s.setupPins fn dir pins) fn dir pins := by
  have F := s.withPins_frame fn dir pins
  rw [State.setupPins_configure hm hE]
  split
  · rename_i same
    refine ⟨rfl, rfl, ?_, fun h => absurd rfl h, NoticeSet.SameBut.refl _ _, F.mono (by simp)⟩
    rw [same]; rfl
  · have H := (s.withPins fn dir pins).handShed_spec (fn.getLsbD 0 && !(s.withPins fn dir pins).pins.gp0)
    generalize (s.withPins fn dir pins).handShed _ = u at H
    have hpins : u.pins = (s.withPins fn dir pins).pins := H.frame .pins (by simp)
    have hclock : u.clock = (s.withPins fn dir pins).clock := H.frame .clock (by simp)
    refine ⟨hpins, hclock, ?_, fun _ => ?_, H.sset, F.comp H.frame (by simp) (by simp)⟩
    · rw [hpins]; exact H.env
    · rw [H.env]; exact H.indicator

/-- Settles O42. -/
theorem pinSetupSetsThePins : Obligations.PinSetupSetsThePins := by
  intro s m pins fn dir ht hu hl
  have passes : Kind.pinSetup.Passes .s m := ⟨rfl, by rw [hl]; rfl, by rw [hu]; rfl⟩
  refine ⟨fun hm hne => ?_, fun hm he => ?_, fun hm hE => ?_⟩
  · have body : pinSetupBody pins m (s.take .s) = refuse m (s.take .s) .wrongMode := by
      simp only [pinSetupBody, hl]
      exact (if_neg hm).trans (if_neg hne)
    exact congrArg Host.Outcome.next (State.handle_refuse ht passes body)
  · let u : State := { s.take .s with pins := { s.pins with dir := dir } }
    have body : pinSetupBody pins m (s.take .s) = done m u false := by
      simp only [pinSetupBody, hl]
      exact (if_neg hm).trans (if_pos he)
    have acts : s.handle .pinSetup .s (pinSetupBody pins) = u.sends .s (m.answer (okResult false)) :=
      State.handle_done ht passes body ht.attached
    exact congrArg Host.Outcome.next acts
  · have body : pinSetupBody pins m (s.take .s) = done m ((s.take .s).setupPins fn dir pins) false := by
      simp only [pinSetupBody, hl]
      exact if_pos hm
    have taken : (s.take .s).EnvelopeOk := ⟨hE.pSite, hE.other, hE.ramp, hE.rounds, hE.stale, hE.shed⟩
    have S := State.setupPins_spec (s := s.take .s) hm taken fn dir pins
    generalize (s.take .s).setupPins fn dir pins = u at S body
    have attached : (u.port .s).health ≠ .detached := by rw [S.frame.port (by simp)]; exact ht.attached
    have acts : s.handle .pinSetup .s (pinSetupBody pins) = u.sends .s (m.answer (okResult false)) :=
      State.handle_done ht passes body attached
    refine ⟨u, congrArg Host.Outcome.next acts, ?_, ?_, ?_, ?_, ?_, S.clock, S.env,
      S.indicator, S.sset, S.frame⟩
    · rw [S.pins]; rfl
    · rw [S.pins]; rfl
    · rw [S.pins]; rfl
    · rw [S.pins]; exact Pins.setup_gp0 _ fn dir pins
    · rw [S.pins]; exact Pins.setup_gp1 _ fn dir pins

end Sys2Proof.Machine
end

section
/-!
SUPPORT. The blocks that the invariants of clock, envelope and settings read, and the operations that reach none of them.
-/
namespace Sys2Proof.Machine

/-- The blocks that `ClockOk`, `EnvelopeOk` and `SettingsOk` read. -/
def controlBlocks : List Block := [.clock, .env, .settings, .pins]

/-- Those blocks are in `t` as they are in `s`. -/
def SameControls (s t : State) : Prop := ∀ k ∈ controlBlocks, k.same s t

namespace SameControls

theorem refl (s : State) : SameControls s s := fun k _ => k.same_refl s

theorem trans {s t u : State} (h : SameControls s t) (h' : SameControls t u) : SameControls s u :=
  fun k hk => Block.same_trans (h k hk) (h' k hk)

theorem foldl {α : Type} {f : State → α → State} (hf : ∀ u a, SameControls u (f u a)) :
    ∀ (l : List α) (s : State), SameControls s (l.foldl f s)
  | [], s => .refl s
  | a :: l, s => (hf s a).trans (foldl hf l (f s a))

theorem of {s t : State} (hc : t.clock = s.clock) (he : t.env = s.env) (hs : t.settings = s.settings)
    (hp : t.pins = s.pins) : SameControls s t := by
  intro k hk
  simp only [controlBlocks, List.mem_cons, List.not_mem_nil, or_false] at hk
  rcases hk with rfl | rfl | rfl | rfl
  exacts [hc, he, hs, hp]

/-- An event that comes about under a condition, and changes nothing where it does not (log 3). -/
theorem ite {c : Prop} [Decidable c] {s t : State} (h : SameControls s t) : SameControls s (if c then t else s) := by
  split
  · exact h
  · exact .refl s

end SameControls

theorem SameBut.controls {l : List Block} {s t : State} (h : SameBut l s t)
    (hl : ∀ k ∈ controlBlocks, k ∉ l := by decide) : SameControls s t := fun k hk => h k (hl k hk)

/-! ### Publications and sessions -/

theorem State.publish_controls (s : State) (b : Fin 32) (v : Nat) : SameControls s (s.publish b v) := by
  by_cases h : (s.bay b).reachable = true
  · exact (State.publish_spec v h).frame.controls
  · rw [State.publish_unreachable v (by simpa using h)]; exact .refl s

theorem State.limitVehicle_controls (s : State) (b : Fin 32) : SameControls s (s.limitVehicle b) :=
  .ite (s.publish_controls b _)

theorem State.confirm_controls (s : State) (b : Fin 32) (q : Byte) : SameControls s (s.confirm b q) := by
  by_cases h : (s.bay b).inSession = true ∧ q.toNat = (s.bay b).seq.toNat
  · exact (State.confirm_spec h.1 h.2).frame.controls
  · rw [State.confirm_ignored h]; exact .refl s

theorem State.resync_controls (s : State) (b : Fin 32) (v : Nat) (q : Byte) : SameControls s (s.resync b v q) :=
  ((s.adopt_spec b v q).frame.controls.trans (State.limitVehicle_controls _ b)).trans (.ite (State.publish_controls _ b _))

theorem State.satisfy_controls (s : State) (b : Fin 32) : SameControls s (s.satisfy b) := by
  cases h : (s.bay b).session with
  | none => simp only [State.satisfy, h]; exact .refl s
  | some x =>
    obtain ⟨-, -, -, -, frame⟩ := State.satisfy_spec h
    exact frame.controls

theorem State.endSession_controls (s : State) (b : Fin 32) : SameControls s (s.endSession b) := by
  cases h : (s.bay b).session with
  | none => rw [State.endSession_none h]; exact .refl s
  | some x => exact (State.endSession_spec h).frame.controls

theorem State.onSession_controls (s : State) (b : Fin 32) (f : Session → Session) : SameControls s (s.onSession b f) :=
  (s.onSession_frame b f).controls

/-! ### The cabinets' messages (chapter 8) -/

theorem State.fitOutlet_controls (s : State) (b : Fin 32) (cap : Nat) : SameControls s (s.fitOutlet b cap) := by
  simp only [State.fitOutlet]
  split
  · exact (s.setBay_frame b _).controls.trans (State.mark_frame _ b).controls
  · exact (s.setBay_frame b _).controls.trans (State.limitVehicle_controls _ b)

theorem State.unfitOutlet_controls (s : State) (b : Fin 32) : SameControls s (s.unfitOutlet b) := by
  unfold State.unfitOutlet
  split
  · exact .refl s
  · exact ((s.endSession_controls b).trans (State.setBay_frame _ b _).controls).trans (State.mark_frame _ b).controls

theorem outletsBody_controls (c : Fin 4) (m : Msg) (s : State) : SameControls s (outletsBody c m s).1 := by
  simp only [outletsBody]
  split
  · rw [done_fst]
    refine SameControls.foldl (fun u o => ?_) allOutlets s
    split
    · exact u.fitOutlet_controls _ _
    · exact u.unfitOutlet_controls _
  · exact .refl s

theorem plugBody_controls (c : Fin 4) (m : Msg) (s : State) : SameControls s (plugBody c m s).1 := by
  unfold plugBody
  split
  · simp only
    split
    · exact .refl s
    · exact (s.endSession_controls _).trans (State.startSession_spec _ _ _ _).frame.controls
  · exact .refl s

theorem unplugBody_controls (c : Fin 4) (m : Msg) (s : State) : SameControls s (unplugBody c m s).1 := by
  simp only [unplugBody]
  split
  · exact .refl s
  · exact .refl s
  · exact s.endSession_controls _

theorem State.meter_controls (s : State) (b : Fin 32) (x : Session) (f : MeterFields) : SameControls s (s.meter b x f) := by
  have takes : ∀ u : State, SameControls u (u.takeApplied b f) := fun u => by
    unfold State.takeApplied
    split
    · exact u.resync_controls b _ _
    · exact u.confirm_controls b _
  exact (((s.setBay_frame b _).controls.trans (State.limitVehicle_controls _ b)).trans (takes _)).trans
    (State.satisfy_controls _ b)

theorem meterBody_controls (c : Fin 4) (m : Msg) (s : State) : SameControls s (meterBody c m s).1 := by
  simp only [meterBody]
  split
  · simp only
    split
    · exact s.meter_controls _ _ _
    · exact s.endSession_controls _
  · exact .refl s

theorem roundEndBody_controls (c : Fin 4) (m : Msg) (s : State) : SameControls s (roundEndBody c m s).1 :=
  (s.setCabinet_frame c _).controls

theorem appliedBody_controls (c : Fin 4) (m : Msg) (s : State) : SameControls s (appliedBody c m s).1 := by
  unfold appliedBody
  split
  · exact s.confirm_controls _ _
  · exact .refl s

theorem State.faultOutlet_controls (s : State) (b : Fin 32) (x : Session) (code : Byte) :
    SameControls s (s.faultOutlet b x code) := by
  have stores := s.setBay_frame b { s.bay b with occ := .session { x with phase := .fault code } }
  simp only [State.faultOutlet]
  refine SameControls.trans ?_ (State.raiseS_frame _ _).controls
  split
  · exact stores.controls
  · exact stores.controls.trans (State.publish_controls _ b 0)

theorem outletFaultBody_controls (c : Fin 4) (m : Msg) (s : State) : SameControls s (outletFaultBody c m s).1 := by
  unfold outletFaultBody
  split
  · simp only
    split
    · exact .refl s
    · exact .refl s
    · exact s.faultOutlet_controls _ _ _
  · exact .refl s

/-! ### Roster edits and the tag window (chapters 1 and 9) -/

theorem State.relink_controls (s : State) (k : Fin 64) : SameControls s (s.relink k) := by
  have denies : ∀ (l : List (Fin 32)) (d : Disposition) (u : State),
      SameControls u (l.foldl (fun v b => v.onSession b (·.deny d)) u) := fun l d u =>
    .foldl (fun v b => v.onSession_controls b _) l u
  unfold State.relink
  split
  · exact .refl s
  · rename_i e _
    refine .ite ?_
    simp only
    split
    · exact denies _ .refused s
    · cases allBays.filter (s.relinks e.tag) with
      | nil => exact .refl s
      | cons b rest =>
        have links := ((s.onSession_controls b (·.grantSlot k)).trans (State.setEntry_frame _ k
          (some { e with state := .plugged b false })).controls).trans (denies rest .duplicate _)
        simp only [State.linkBays]
        split
        · exact links
        · exact links.trans (State.raiseD_frame _ _).controls

theorem State.barEntry_controls (s : State) (k : Fin 64) (b : Fin 32) : SameControls s (s.barEntry k b) := by
  refine SameControls.trans ?_ (State.onSession_controls _ b _)
  unfold State.leavePlugged
  split
  · exact (s.setEntry_frame k _).controls.trans (State.evalOverdue_frame _).controls
  · exact .refl s

theorem State.updateEntry_controls (s : State) (k : Fin 64) (e : Entry) (f : PutFields) :
    SameControls s (s.updateEntry k e f) := by
  have puts := (s.setEntry_frame k (some (e.put f))).controls
  simp only [State.updateEntry]
  split
  · split
    · exact puts.trans (State.barEntry_controls _ k _)
    · exact puts
  · exact puts

theorem rosterPutBody_controls (m : Msg) (s : State) : SameControls s (rosterPutBody m s).1 := by
  unfold rosterPutBody
  split
  · exact .refl s
  · split
    · split
      · exact (s.updateEntry_controls _ _ _).trans (State.relink_controls _ _)
      · exact .refl s
    · split
      · exact .refl s
      · split
        · exact .refl s
        · exact ((s.setEntry_frame _ _).controls.trans (State.setIndex_frame _ _ _).controls).trans
            (State.relink_controls _ _)

theorem rosterDropBody_controls (m : Msg) (s : State) : SameControls s (rosterDropBody m s).1 := by
  unfold rosterDropBody
  split
  · simp only
    split
    · exact .refl s
    · split
      · exact .refl s
      · split
        · exact .refl s
        · exact (s.setEntry_frame _ _).controls.trans (State.setIndex_frame _ _ _).controls
  · exact .refl s

theorem tagWindowBody_controls (m : Msg) (s : State) : SameControls s (tagWindowBody m s).1 := by
  unfold tagWindowBody
  split
  · split
    · exact .of rfl rfl rfl rfl
    · exact .refl s
  · exact .refl s

theorem State.endRebuild_controls (s : State) (r : Rebuild) : SameControls s (s.endRebuild r) := by
  cases h : s.rebuiltIndex r.window with
  | some v =>
    rw [State.endRebuild_taken h]
    exact (s.withIndex_frame _).controls.trans (State.reply_frame _ .d _).controls
  | none =>
    rw [State.endRebuild_collision h]
    exact (s.withIndex_frame _).controls.trans (State.reply_frame _ .d _).controls

/-! ### Links (chapters 6 and 7) -/

theorem State.reject_controls (s : State) (p : Port) : SameControls s (s.reject p) := by
  by_cases h : (s.port p).health = .detached
  · rw [State.reject_detached h]; exact (s.setPort_frame p _).controls
  · by_cases he : (s.port p).errors + 8 < 255
    · exact (State.reject_spec h he).frame.controls
    · rw [State.reject_detaches h (Nat.not_lt.mp he)]; exact (s.detach_spec p).frame.controls

theorem State.acceptDetached_controls (s : State) (p : Port) (k : Byte) : SameControls s (s.acceptDetached p k) := by
  refine .ite ?_
  split
  · exact (s.rejoin_spec p).frame.controls
  · exact (s.setPort_frame p _).controls

theorem State.handOn_controls (s : State) (p : Port) (x : Item) : SameControls s (s.handOn p x) := by
  unfold State.handOn State.overrun
  simp only
  split
  · exact .refl s
  · split
    · exact (s.setPort_frame p _).controls
    · split
      · exact (s.raiseD_frame _).controls
      · exact (s.raiseS_frame _).controls

theorem State.deliver_controls (s : State) (p : Port) (m : Msg) (good : Bool) : SameControls s (s.deliver p m good) := by
  unfold State.deliver
  split
  · split
    · exact s.acceptDetached_controls p _
    · exact (s.accept_spec p).frame.controls.trans (State.handOn_controls _ p _)
  · split
    · exact (s.reject_controls p).trans (State.handOn_controls _ p _)
    · exact s.reject_controls p

theorem State.setRx_controls (s : State) (p : Port) (x : Receiver) : SameControls s (s.setRx p x) :=
  (s.setRx_frame p x).controls

theorem State.faultHeader_controls (s : State) (p : Port) : SameControls s (s.faultHeader p) :=
  (s.setRx_controls p _).trans (State.reject_controls _ p)

theorem State.completeMessage_controls (s : State) (p : Port) : SameControls s (s.completeMessage p) := by
  unfold State.completeMessage
  split
  · split
    · exact (s.setRx_controls p _).trans (State.deliver_controls _ p _ _)
    · exact .refl s
  · exact .refl s

theorem State.settle_controls (s : State) (p : Port) : SameControls s (s.settle p) := by
  unfold State.settle
  split
  · exact s.faultHeader_controls p
  · exact .ite (s.completeMessage_controls p)

theorem State.character_controls (s : State) (p : Port) (b : Byte) : SameControls s (s.character p b) := by
  unfold State.character
  split
  · exact s.faultHeader_controls p
  · exact .refl s
  · exact s.setRx_controls p _
  · exact s.setRx_controls p _

theorem State.beginSending_controls (s : State) (p : Port) : SameControls s (s.beginSending p) := by
  have replies : SameControls s (s.sendReply p) := by
    simp only [State.sendReply]
    split <;> exact (s.setPort_frame p _).controls
  unfold State.beginSending
  split
  · split
    · exact (s.setBoard_frame _ none).controls.trans (State.setPort_frame _ _ _).controls
    · exact replies
  · exact replies

/-! ### The S-port's messages, RESTART and RESET (chapters 7, 10 and 12) -/

theorem State.onSet_controls (s : State) (p : Port) (f : NoticeSet → Mask → NoticeSet) : SameControls s (s.onSet p f) := by
  unfold State.onSet
  split <;> exact .of rfl rfl rfl rfl

theorem noticeEnableBody_controls (p : Port) (m : Msg) (s : State) : SameControls s (noticeEnableBody p m s).1 := by
  unfold noticeEnableBody
  split
  · rw [done_fst]; exact s.onSet_controls p _
  · exact .refl s

theorem noticeClearBody_controls (p : Port) (m : Msg) (s : State) : SameControls s (noticeClearBody p m s).1 := by
  unfold noticeClearBody
  split
  · rw [done_fst]; exact s.onSet_controls p _
  · exact .refl s

theorem restartBody_controls (m : Msg) (s : State) : SameControls s (restartBody m s).1 :=
  s.restartBlocks_frame.controls.trans s.restartBlocks.handConditions_frame.controls

theorem releaseCabinetBody_controls (m : Msg) (s : State) : SameControls s (releaseCabinetBody m s).1 := by
  simp only [releaseCabinetBody]
  split
  · exact .refl s
  · split
    · exact .refl s
    · rw [done_fst]; exact SameControls.foldl State.endSession_controls (baysOf _) s

theorem slotAssignBody_controls (m : Msg) (s : State) : SameControls s (slotAssignBody m s).1 := by
  unfold slotAssignBody
  split
  · simp only
    split
    · split
      · exact (s.setBay_frame _ _).controls
      · exact .refl s
    · exact .refl s
  · exact .refl s

theorem State.assertReset_controls (s : State) : SameControls s s.assertReset := .of rfl rfl rfl rfl

/-! ### Slots and pass completion, up to the change of mode (R82, R86) -/

theorem State.takeSlot_controls (s : State) (k : Fin 4) : SameControls s (s.takeSlot k) := by
  refine SameControls.trans ?_ (SameControls.foldl (fun u b => ?_) s.alloc.order _)
  · exact .of rfl rfl rfl rfl
  · unfold State.evaluateAt
    split
    · exact .refl u
    · rename_i target _
      refine .ite (SameControls.trans ?_ (State.setPendingInc_frame _ b none).controls)
      rcases u.increase_cases b target with e | ⟨v, n, x, hv, e⟩
      · rw [e]; exact .refl u
      · rw [e]
        refine hv.frame.controls.trans ?_
        exact .of rfl rfl rfl rfl

theorem State.finishPass_controls (s : State) (sn : Snapshot) : SameControls s (s.finishPass sn) := by
  have writes : SameControls s (s.writeResults sn sn.shares)  := by
    unfold State.writeResults
    exact (s.mapBays_frame _).controls
  have orders : ∀ u : State, SameControls u (u.replaceOrder sn).evalAtRisk := fun u => .of rfl rfl rfl rfl
  have decreases : ∀ (u : State) (b : Fin 32), SameControls u (State.decrease sn sn.shares u b) := fun u b =>
    .ite (u.publish_controls b _)
  have ends : ∀ u : State, SameControls u u.endPass := fun u => .of rfl rfl rfl rfl
  have first := (writes.trans (orders _)).trans (.foldl decreases allBays _)
  simp only [State.finishPass]
  refine SameControls.trans ?_ (ends _)
  split
  · exact (first.trans (State.noteIncreases_frame _ sn sn.shares).controls).trans (State.takeSlot_controls _ 0)
  · exact first

/-! ### Commands that reach none of those blocks -/

theorem State.handle_controls {s : State} {k : Kind} {p : Port} {body : Msg → State → State × Option Msg}
    (hb : ∀ m u, SameControls u (body m u).1) : SameControls s (s.handle k p body) :=
  State.handle_keeps (P := SameControls s) (fun f h => h.trans f.controls) (fun m _ h => h.trans (hb m _)) (.refl s)

/-- The commands that reach neither clock, envelope, settings nor pins. -/
def offControls : Instr → Bool
  | .messageComplete _ | .headerFault _ | .framingError _ _ | .idleGapElapsed _ | .characterReceived _ _
  | .silenceTimerExpiry _ | .endOfGap _ | .messageSent _ | .payloadCheck _ | .unknownKind _ | .keepalive _
  | .outlets _ | .plug _ | .unplug _ | .meter _ | .roundEnd _ | .applied _ | .outletFault _
  | .rosterPut _ | .rosterDrop _ | .tagWindow _ | .indexRebuildEnd | .noticeEnable _ | .noticeClear _
  | .restart _ | .releaseCabinet _ | .slotAssign _ | .slot _ | .resetAsserted => true
  | _ => false

theorem exec_sameControls {c : Instr} {s t : State} (hc : offControls c = true) (h : exec c s = .next t) :
    SameControls s t := by
  have inj : ∀ {u : State}, Host.Outcome.next (φ := Fault) (ρ := Refusal) u = .next t → SameControls s u →
      SameControls s t := by
    rintro u ⟨⟩ hu; exact hu
  cases c <;> simp only [offControls, Bool.false_eq_true] at hc
  case messageComplete p => exact inj h (.ite (s.completeMessage_controls p))
  case headerFault p => exact inj h (.ite (s.faultHeader_controls p))
  case framingError p cause =>
    refine inj h (.ite ?_)
    simp only
    split
    · exact (s.settle_controls p).trans (State.faultHeader_controls _ p)
    · exact s.settle_controls p
  case idleGapElapsed p =>
    refine inj h (.ite ?_)
    simp only
    split
    · exact (s.settle_controls p).trans (State.setRx_controls _ p _)
    · exact s.settle_controls p
  case characterReceived p b => exact inj h (.ite ((s.settle_controls p).trans (State.character_controls _ p b)))
  case silenceTimerExpiry c => exact inj h (.ite (s.detach_spec (.c c)).frame.controls)
  case endOfGap p => exact inj h (.ite (s.beginSending_controls p))
  case messageSent p => exact inj h (.ite ((s.setPort_frame p _).controls.trans (State.kick_frame _ p).controls))
  case payloadCheck p =>
    refine inj h ?_
    split
    · exact (s.take_frame p).controls.trans (State.reply_frame _ p _).controls
    · exact .refl s
  case unknownKind p =>
    refine inj h ?_
    split
    · split
      · exact (s.take_frame p).controls.trans (State.reply_frame _ p _).controls
      · exact .refl s
    · exact .refl s
  case keepalive p => exact inj h (State.handle_controls fun _ u => .refl u)
  case outlets p => exact inj h (State.handle_controls (onCabinet_keeps .refl outletsBody_controls))
  case plug p => exact inj h (State.handle_controls (onCabinet_keeps .refl plugBody_controls))
  case unplug p => exact inj h (State.handle_controls (onCabinet_keeps .refl unplugBody_controls))
  case meter p => exact inj h (State.handle_controls (onCabinet_keeps .refl meterBody_controls))
  case roundEnd p => exact inj h (State.handle_controls (onCabinet_keeps .refl roundEndBody_controls))
  case applied p => exact inj h (State.handle_controls (onCabinet_keeps .refl appliedBody_controls))
  case outletFault p => exact inj h (State.handle_controls (onCabinet_keeps .refl outletFaultBody_controls))
  case rosterPut p => exact inj h (State.handle_controls rosterPutBody_controls)
  case rosterDrop p => exact inj h (State.handle_controls rosterDropBody_controls)
  case tagWindow p => exact inj h (State.handle_controls tagWindowBody_controls)
  case indexRebuildEnd =>
    refine inj h ?_
    split
    · exact .refl s
    · split
      · exact s.endRebuild_controls _
      · exact .refl s
  case noticeEnable p => exact inj h (State.handle_controls (noticeEnableBody_controls p))
  case noticeClear p => exact inj h (State.handle_controls (noticeClearBody_controls p))
  case restart p => exact inj h (State.handle_controls restartBody_controls)
  case releaseCabinet p => exact inj h (State.handle_controls releaseCabinetBody_controls)
  case slotAssign p => exact inj h (State.handle_controls slotAssignBody_controls)
  case slot k =>
    refine inj h (.ite (SameControls.trans ?_ (State.takeSlot_controls _ k)))
    exact .of rfl rfl rfl rfl
  case resetAsserted =>
    refine inj h ?_
    split
    · exact .refl s
    · exact s.assertReset_controls

end Sys2Proof.Machine
end

section
/-!
PROOFS. Clock, envelope and settings through every step (R27, R29, R37, R42, R54, R77, R111): O58.
-/
namespace Sys2Proof.Machine

/-- Clock, envelope and settings lie in their ranges. -/
structure State.ControlsOk (s : State) : Prop where
  clock : s.ClockOk
  envelope : s.EnvelopeOk
  settings : s.SettingsOk

/-! ### What each invariant reads -/

theorem State.ClockOk.congr {s t : State} (h : s.ClockOk) (hc : t.clock = s.clock)
    (hf : t.pins.fn = s.pins.fn) : t.ClockOk := by
  have hd : t.dedicated 1 = s.dedicated 1 := by rw [State.dedicated, hf]; rfl
  refine ⟨?_, ?_, ?_, ?_⟩ <;> rw [hc]
  exacts [h.minute, h.second, h.fraction, hd ▸ h.pulse]

theorem State.EnvelopeOk.congr {s t : State} (h : s.EnvelopeOk) (he : t.env = s.env) (hf : t.pins.fn = s.pins.fn)
    (hg : t.pins.gp0 = s.pins.gp0) : t.EnvelopeOk := by
  have hd : t.dedicated 0 = s.dedicated 0 := by rw [State.dedicated, hf]; rfl
  refine ⟨?_, ?_, ?_, ?_, ?_, ?_⟩ <;> rw [he]
  exacts [h.pSite, h.other, h.ramp, h.rounds, h.stale, by rw [hd, hg]; exact h.shed]

theorem State.SettingsOk.congr {s t : State} (h : s.SettingsOk) (he : t.settings = s.settings) : t.SettingsOk := by
  refine ⟨?_, ?_, ?_, ?_, ?_, ?_⟩ <;> rw [he]
  exacts [h.round, h.pmin, h.inForce, h.guard, h.limitD, h.limitS]

theorem SameControls.ok {s t : State} (f : SameControls s t) (h : s.ControlsOk) : t.ControlsOk := by
  have hp : t.pins = s.pins := f .pins (by decide)
  exact ⟨h.clock.congr (f .clock (by decide)) (by rw [hp]),
    h.envelope.congr (f .env (by decide)) (by rw [hp]) (by rw [hp]), h.settings.congr (f .settings (by decide))⟩

namespace State.ControlsOk

theorem of_eq {s t : State} (h : s.ControlsOk) (hc : t.clock = s.clock) (he : t.env = s.env) (hs : t.settings = s.settings)
    (hp : t.pins = s.pins) : t.ControlsOk := (SameControls.of hc he hs hp).ok h

/-- A write of the clock alone. -/
theorem setClock {s : State} (h : s.ControlsOk) {x : Clock} (hx : State.ClockOk { s with clock := x }) :
    State.ControlsOk { s with clock := x } :=
  ⟨hx, h.envelope.congr rfl rfl rfl, h.settings.congr rfl⟩

/-- A write of the envelope alone. -/
theorem setEnv {s : State} (h : s.ControlsOk) {x : Envelope} (hx : State.EnvelopeOk { s with env := x }) :
    State.ControlsOk { s with env := x } :=
  ⟨h.clock.congr rfl rfl, hx, h.settings.congr rfl⟩

/-- A write of the settings alone. -/
theorem setSettings {s : State} (h : s.ControlsOk) {x : Settings} (hx : State.SettingsOk { s with settings := x }) :
    State.ControlsOk { s with settings := x } :=
  ⟨h.clock.congr rfl rfl, h.envelope.congr rfl rfl rfl, hx⟩

/-- A write of the pins that leaves the functions and the recognised level of GP0. -/
theorem setPins {s : State} (h : s.ControlsOk) {x : Pins} (hf : x.fn = s.pins.fn) (hg : x.gp0 = s.pins.gp0) :
    State.ControlsOk { s with pins := x } :=
  ⟨h.clock.congr rfl hf, h.envelope.congr rfl hf hg, h.settings.congr rfl⟩

/-- An event that comes about under a condition, and changes nothing where it does not (log 3). -/
theorem ite {c : Prop} [Decidable c] {s t : State} (h : s.ControlsOk) (ht : c → t.ControlsOk) :
    State.ControlsOk (if c then t else s) := by
  split
  · rename_i hc; exact ht hc
  · exact h

/-- The handling of an item keeps the ranges where the rule of its kind does. -/
theorem handle {s : State} (h : s.ControlsOk) {k : Kind} {p : Port} {body : Msg → State → State × Option Msg}
    (hb : ∀ m u, u.ControlsOk → (body m u).1.ControlsOk) : (s.handle k p body).ControlsOk :=
  State.handle_keeps (P := State.ControlsOk) (fun f hu => f.controls.ok hu) (fun m _ hu => hb m _ hu) h

end State.ControlsOk

/-! ### Depot Clock (R27 to R31) -/

/-- On the internal time base the ranges of the clock are all there is. -/
theorem clockOk_internal {s : State} {x : Clock} (hd : s.dedicated 1 = false) (hm : x.minute ≤ lastMinute)
    (hs : x.second ≤ 59) (hf : x.fraction < 8000000) : State.ClockOk { s with clock := x } :=
  ⟨hm, hs, hf, fun hp => absurd (hd.symm.trans hp) (by decide)⟩

theorem Evaluates.controls {s t : State} {x : Clock} {n : Nat} (E : Evaluates s t x n) (h : s.ControlsOk)
    (hx : State.ClockOk { s with clock := x }) : t.ControlsOk := by
  have hp : t.pins = s.pins := E.frame .pins (by simp)
  exact ⟨hx.congr E.clock (by rw [hp]), h.envelope.congr (E.frame .env (by simp)) (by rw [hp]) (by rw [hp]),
    h.settings.congr (E.frame .settings (by simp))⟩

/-- A minute event keeps the ranges: the shift minute holds at 4095 (R30). -/
theorem State.minuteTick_controls {s : State} (h : s.ControlsOk) : s.minuteTick.ControlsOk :=
  (s.minuteTick_evaluates s.clock).controls h ⟨min_le_left _ _, h.clock.second, h.clock.fraction, h.clock.pulse⟩

theorem clockSetBody_controls {m : Msg} {s : State} (h : s.ControlsOk) : (clockSetBody m s).1.ControlsOk := by
  unfold clockSetBody
  split
  · rw [done_fst, State.setClock_eq]
    refine (s.evaluateDepartures_evaluates _).controls h ⟨min_le_left _ _, ?_, Nat.zero_lt_succ _, fun hp => ?_⟩
    · simp only [State.clockSetTo]
      split
      · exact Nat.zero_le _
      · exact min_le_left _ _
    · have pulse : s.dedicated 1 = true := hp
      simp only [State.clockSetTo, pulse, if_true, Bool.true_eq_false, false_and, decide_false, and_self]
  · exact h

theorem internal_of_runs {s : State} (h : (!s.resetLow && s.internalBase) = true) : s.dedicated 1 = false := by
  simp only [State.internalBase, Bool.and_eq_true, Bool.not_eq_true'] at h
  exact h.2

theorem State.tick_controls {s : State} (h : s.ControlsOk) : s.tick.ControlsOk :=
  h.ite fun hc => h.setClock (clockOk_internal (internal_of_runs hc) h.clock.minute h.clock.second
    (lt_of_le_of_lt (min_le_left _ _) (by decide)))

/-! ### Envelope Unit and rounds (R37 to R45, R79) -/

theorem RoundStarts.controls {s t : State} (r : RoundStarts s t) (h : s.ControlsOk) : t.ControlsOk := by
  have hp : t.pins = s.pins := r.frame .pins (by simp)
  have stepped : State.EnvelopeOk { s with env := t.env } := by
    rw [r.env]
    refine ⟨h.envelope.pSite, h.envelope.other, h.envelope.ramp, min_le_left _ _, ?_, h.envelope.shed⟩
    have := h.envelope.rounds
    simp only [Bool.or_eq_true, h.envelope.stale, decide_eq_true_eq]
    omega
  exact ⟨h.clock.congr (r.frame .clock (by simp)) (by rw [hp]), stepped.congr rfl (by rw [hp]) (by rw [hp]),
    h.settings.congr (r.frame .settings (by simp))⟩

theorem EarlyRound.controls {s t : State} (r : EarlyRound s t) (h : s.ControlsOk) : t.ControlsOk := by
  unfold EarlyRound at r
  split at r
  · rw [r]; exact h
  · split at r
    · rw [r]; exact h.of_eq rfl rfl rfl rfl
    · exact r.controls h

theorem State.requestIfExceeded_controls {s : State} (h : s.ControlsOk) : s.requestIfExceeded.ControlsOk :=
  h.ite fun _ => s.requestEarly_spec.controls h

theorem siteLimitBody_controls {m : Msg} {s : State} (h : s.ControlsOk) : (siteLimitBody m s).1.ControlsOk := by
  have e := h.envelope
  unfold siteLimitBody
  split
  · rw [done_fst]
    refine State.requestIfExceeded_controls ((State.evalExceeded_frame _).controls.ok (h.setEnv ?_))
    exact ⟨field16_le _ _, e.other, e.ramp, e.rounds, e.stale, e.shed⟩
  · exact h

theorem loadReportBody_controls {m : Msg} {s : State} (h : s.ControlsOk) : (loadReportBody m s).1.ControlsOk := by
  have e := h.envelope
  unfold loadReportBody
  split
  · rw [done_fst]
    refine State.requestIfExceeded_controls ((State.evalLoadStale_frame _).controls.ok
      ((State.evalExceeded_frame _).controls.ok (h.setEnv ?_)))
    exact ⟨e.pSite, field16_le _ _, e.ramp, Nat.zero_le _, ⟨fun x => (by cases x), fun x => (by cases x)⟩, e.shed⟩
  · exact h

theorem rampLimitBody_controls {m : Msg} {s : State} (h : s.ControlsOk) : (rampLimitBody m s).1.ControlsOk := by
  have e := h.envelope
  unfold rampLimitBody
  split
  · exact h.setEnv ⟨e.pSite, e.other, field16_le _ _, e.rounds, e.stale, e.shed⟩
  · exact h

/-- A shed assertion (R44) keeps the ranges where the shed it sets agrees with GP0. -/
theorem State.assertShed_controls {s : State} (h : State.ControlsOk { s with env := { s.env with shed := true } }) :
    s.assertShed.ControlsOk := by
  refine (State.requestEarly_spec _).controls
    ((State.evalExceeded_frame _).controls.ok ((State.evalShed_frame _).controls.ok ?_))
  split
  · exact h
  · exact (State.halveAll_spec _).frame.controls.ok h

/-- The shed set with the recognised level of a dedicated GP0 that brings it (R42, R173). -/
theorem State.ControlsOk.edge {s : State} (h : s.ControlsOk) (hd : s.dedicated 0 = true) (level : Bool) :
    State.ControlsOk { s with pins := { s.pins with gp0 := level }, env := { s.env with shed := !level } } := by
  have e := h.envelope
  refine ⟨h.clock.congr rfl rfl, ⟨e.pSite, e.other, e.ramp, e.rounds, e.stale, ?_⟩, h.settings.congr rfl⟩
  have ded : State.dedicated { s with pins := { s.pins with gp0 := level }, env := { s.env with shed := !level } } 0 = true :=
    hd
  rw [ded, Bool.not_eq_true']
  exact ⟨fun x => ⟨rfl, x⟩, fun x => x.2⟩

/-! ### Modes and passes (R82, R157) -/

theorem ModeTakesEffect.controls {s t : State} {m : Mode} (c : ModeTakesEffect s t m) (h : s.ControlsOk) : t.ControlsOk := by
  unfold ModeTakesEffect at c
  split at c
  · rw [c]; exact h.of_eq rfl rfl rfl rfl
  · split at c
    · exact c.frame.controls.ok h
    · split at c
      · obtain ⟨u, hu, r⟩ := c
        have started := hu.frame.controls.ok h
        have g := h.settings
        have governed : State.ControlsOk { u with settings := { s.settings with pminInForce := s.settings.pmin } } :=
          started.setSettings ⟨g.round, g.pmin, g.pmin, g.guard, g.limitD, g.limitS⟩
        exact r.controls (governed.of_eq rfl rfl rfl rfl)
      · obtain ⟨u, hu, ht⟩ := c
        have started := hu.frame.controls.ok h
        rw [ht]
        split
        · exact started.of_eq rfl rfl rfl rfl
        · exact started.of_eq rfl rfl rfl rfl

theorem modeRequestBody_controls {m : Msg} {s : State} (h : s.ControlsOk) : (modeRequestBody m s).1.ControlsOk := by
  unfold modeRequestBody
  split
  · split
    · exact h
    · rw [done_fst]
      unfold State.requestMode
      split
      · exact h.of_eq rfl rfl rfl rfl
      · exact (s.changeMode_spec _).controls h
  · exact h

theorem State.completePass_controls {s : State} (h : s.ControlsOk) (sn : Snapshot) : (s.completePass sn).ControlsOk := by
  have modes : ∀ u : State, u.ControlsOk → u.takePendingMode.ControlsOk := fun u hu => by
    unfold State.takePendingMode
    split
    · exact (u.changeMode_spec _).controls hu
    · exact hu
  have requests : ∀ u : State, u.ControlsOk → u.takeHeldRequest.ControlsOk := fun u hu => by
    have cleared : State.ControlsOk { u with alloc := { u.alloc with early := false } } :=
      hu.of_eq rfl rfl rfl rfl
    refine hu.ite fun _ => ?_
    simp only
    split
    · exact cleared
    · exact (State.roundStart_spec _).controls cleared
  exact requests _ (modes _ ((s.finishPass_controls sn).ok h))

/-! ### Settings (R54, R77, R111) -/

theorem clampRound_range (n : Nat) : 8 ≤ clampRound n ∧ clampRound n ≤ 120 ∧ clampRound n % 4 = 0 := by
  unfold clampRound; omega

theorem clampLimit_range (n : Nat) : 6 ≤ clampLimit n ∧ clampLimit n ≤ 60 := by
  unfold clampLimit; omega

theorem vanPolicyBody_controls {m : Msg} {s : State} (h : s.ControlsOk) : (vanPolicyBody m s).1.ControlsOk := by
  have g := h.settings
  unfold vanPolicyBody
  split
  · exact h.setSettings ⟨g.round, g.pmin, g.inForce, min_le_left _ _, g.limitD, g.limitS⟩
  · exact h

theorem replyLimitBody_controls {p : Port} {m : Msg} {s : State} (h : s.ControlsOk) :
    (replyLimitBody p m s).1.ControlsOk := by
  have g := h.settings
  unfold replyLimitBody
  split
  · rw [done_fst]
    unfold State.setLimit
    split
    · exact h.setSettings ⟨g.round, g.pmin, g.inForce, g.guard, clampLimit_range _, g.limitS⟩
    · exact h.setSettings ⟨g.round, g.pmin, g.inForce, g.guard, g.limitD, clampLimit_range _⟩
  · exact h

theorem allocationSetupBody_controls {m : Msg} {s : State} (h : s.ControlsOk) : (allocationSetupBody m s).1.ControlsOk := by
  have g := h.settings
  unfold allocationSetupBody
  split
  · split
    · exact h.setSettings ⟨clampRound_range _, min_le_left _ _, g.inForce, g.guard, g.limitD, g.limitS⟩
    · exact h
  · exact h

/-! ### Pins (R29, R42, R173) -/

theorem readBody_controls {p : Port} {pins : PinReading} {m : Msg} {s : State} (h : s.ControlsOk) :
    (readBody p pins m s).1.ControlsOk := by
  unfold readBody
  split
  · exact h.setPins rfl rfl
  · exact h

theorem pinWriteBody_controls {m : Msg} {s : State} (h : s.ControlsOk) : (pinWriteBody m s).1.ControlsOk := by
  unfold pinWriteBody
  split
  · exact h.setPins rfl rfl
  · exact h

/-- The functions set in CONFIGURE keep the ranges: a clock on a new time base starts a second, the shed follows GP0. -/
theorem SetsPins.controls {s u : State} {fn dir pins : Byte} (S : SetsPins s u fn dir pins) (h : s.ControlsOk) :
    u.ControlsOk := by
  have hfn : ∀ n, u.dedicated n = fn.getLsbD n := fun n => by rw [State.dedicated, S.pins]; rfl
  refine ⟨?_, ?_, h.settings.congr (S.frame .settings (by simp))⟩
  · have c := h.clock
    have clock := S.clock
    unfold State.clockUnder at clock
    split at clock
    · rename_i same
      refine ⟨?_, ?_, ?_, ?_⟩ <;> rw [clock]
      exacts [c.minute, c.second, c.fraction, by rw [hfn, same]; exact c.pulse]
    · refine ⟨?_, ?_, ?_, ?_⟩ <;> rw [clock]
      exacts [c.minute, Nat.zero_le _, Nat.zero_lt_succ _, fun _ => ⟨rfl, rfl, rfl⟩]
  · have e := h.envelope
    refine ⟨?_, ?_, ?_, ?_, ?_, ?_⟩ <;> rw [S.env]
    exacts [e.pSite, e.other, e.ramp, e.rounds, e.stale, by
      rw [hfn, Bool.and_eq_true, Bool.not_eq_true']]

theorem pinSetupBody_controls {pins : Byte} {m : Msg} {s : State} (h : s.ControlsOk) :
    (pinSetupBody pins m s).1.ControlsOk := by
  unfold pinSetupBody
  split
  · split
    · rename_i hm
      exact (State.setupPins_spec hm h.envelope _ _ _).controls h
    · split
      · exact h.setPins rfl rfl
      · exact h
  · exact h

/-- The power-on values lie in their ranges (R36, R52, R98, R111). -/
theorem powerOn_controls (cabs baud : BitVec 2) (pins : Byte) : (State.powerOn cabs baud pins).ControlsOk where
  clock := ⟨Nat.zero_le _, Nat.zero_le _, Nat.zero_lt_succ _, fun _ => ⟨rfl, rfl, rfl⟩⟩
  envelope := ⟨Nat.zero_le _, Nat.zero_le _, Nat.zero_le _, Nat.le_refl 3, ⟨fun _ => rfl, fun _ => rfl⟩,
    ⟨fun x => (by cases x), fun x => absurd x.1 (by decide : ¬ (0 : Byte).getLsbD 0 = true)⟩⟩
  settings := ⟨(by decide : 8 ≤ 32 ∧ 32 ≤ 120 ∧ 32 % 4 = 0), (by decide : 40 ≤ maxPmin), (by decide : 40 ≤ maxPmin),
    (by decide : 15 ≤ maxGuard), (by decide : 6 ≤ 24 ∧ 24 ≤ 60), (by decide : 6 ≤ 24 ∧ 24 ≤ 60)⟩

/-! ### Every command -/

theorem exec_controls {c : Instr} {s t : State} (h : s.ControlsOk) (e : exec c s = .next t) : t.ControlsOk := by
  by_cases hc : offControls c = true
  · exact (exec_sameControls hc e).ok h
  have inj : ∀ {u : State}, Host.Outcome.next (φ := Fault) (ρ := Refusal) u = .next t → u.ControlsOk →
      t.ControlsOk := by
    rintro u ⟨⟩ hu; exact hu
  cases c <;> simp only [offControls, not_true_eq_false] at hc
  case clockSet p => exact inj e (h.handle fun _ _ => clockSetBody_controls)
  case vanPolicy p => exact inj e (h.handle fun _ _ => vanPolicyBody_controls)
  case read p pins => exact inj e (h.handle fun _ _ => readBody_controls)
  case replyLimit p => exact inj e (h.handle fun _ _ => replyLimitBody_controls)
  case siteLimit p => exact inj e (h.handle fun _ _ => siteLimitBody_controls)
  case loadReport p => exact inj e (h.handle fun _ _ => loadReportBody_controls)
  case rampLimit p => exact inj e (h.handle fun _ _ => rampLimitBody_controls)
  case modeRequest p => exact inj e (h.handle fun _ _ => modeRequestBody_controls)
  case allocationSetup p => exact inj e (h.handle fun _ _ => allocationSetupBody_controls)
  case pinSetup p pins => exact inj e (h.handle fun _ _ => pinSetupBody_controls)
  case pinWrite p => exact inj e (h.handle fun _ _ => pinWriteBody_controls)
  case secondComplete =>
    refine inj e (h.ite fun runs => ?_)
    have hd := internal_of_runs runs
    simp only
    split
    · rename_i below
      exact h.setClock (clockOk_internal hd h.clock.minute below (Nat.zero_lt_succ _))
    · exact State.minuteTick_controls (h.setClock (clockOk_internal hd h.clock.minute (Nat.zero_le _) (Nat.zero_lt_succ _)))
  case minuteEvent =>
    refine inj e (h.ite fun runs => ?_)
    have hd := internal_of_runs runs
    split
    · exact State.minuteTick_controls (h.setClock (clockOk_internal hd h.clock.minute (Nat.zero_le _) (Nat.zero_lt_succ _)))
    · refine h.ite fun _ => State.minuteTick_controls (h.setClock ?_)
      exact clockOk_internal hd h.clock.minute h.clock.second h.clock.fraction
  case minutePulse => exact inj e (h.ite fun _ => State.minuteTick_controls (h.setPins rfl rfl))
  case shedAssertion =>
    refine inj e (h.ite fun hc => ?_)
    simp only [Bool.and_eq_true] at hc
    exact State.assertShed_controls (h.edge hc.1.2 false)
  case shedRelease =>
    refine inj e (h.ite fun hc => ?_)
    simp only [Bool.and_eq_true] at hc
    exact (State.evalExceeded_frame _).controls.ok ((State.evalShed_frame _).controls.ok (h.edge hc.1.2 true))
  case roundTimerExpiry => exact inj e (h.ite fun _ => s.roundStart_spec.controls h)
  case passCompletion =>
    refine inj e ?_
    split
    · exact h
    · split
      · exact State.completePass_controls h _
      · exact h
  case resetRelease cabs baud pins =>
    exact inj e (h.ite fun _ => (powerOn_controls cabs baud pins).of_eq rfl rfl rfl rfl)

/-- Settles O58: the commands that reach clock, envelope, settings or pins each write values in range. -/
theorem keepsClockEnvelopeAndSettings : Obligations.KeepsClockEnvelopeAndSettings := by
  intro s t hC hE hS h
  have hs : s.ControlsOk := ⟨hC, hE, hS⟩
  suffices t.ControlsOk from ⟨this.clock, this.envelope, this.settings⟩
  unfold step at h
  split at h
  · have taken : ∀ rest, State.ControlsOk { s with pending := rest } := fun _ => hs.of_eq rfl rfl rfl rfl
    exact exec_controls (taken _) h
  · cases h; exact State.tick_controls hs

end Sys2Proof.Machine
end

section
/-!
SUPPORT. The answers of a request that is acted on (R108).
-/
namespace Sys2Proof.Machine

/-- A request acted on with no field clamped is answered OK (R108). -/
theorem State.handle_ok {s u : State} {p : Port} {k : Kind} {m : Msg} {body : Msg → State → State × Option Msg}
    (h : s.Takes p k m) (hp : k.Passes p m) (hb : body m (s.take p) = done m u false) (hu : (u.port p).health ≠ .detached) :
    s.handle k p body = u.sends p (m.answer 0) := by
  have acts := State.handle_done h hp hb hu
  rwa [okResult, if_neg Bool.false_ne_true] at acts

/-- A request acted on is answered CLAMPED where `c` says so, and OK otherwise (R108). -/
theorem State.handle_clamped {s u : State} {p : Port} {k : Kind} {m : Msg} {body : Msg → State → State × Option Msg}
    {c : Prop} [Decidable c] (h : s.Takes p k m) (hp : k.Passes p m) (hb : body m (s.take p) = done m u (decide c))
    (hu : (u.port p).health ≠ .detached) :
    s.handle k p body = u.sends p (m.answer (if c then Flag.clamped.result else 0)) := by
  have acts := State.handle_done h hp hb hu
  simpa only [okResult, decide_eq_true_eq] using acts

end Sys2Proof.Machine
end

section
/-!
PROOFS. The derived envelope figures (R41, R43), the requests that change the envelope (R38, R39), load shedding (R44, R45,
R92) and the slots (R86, R87): O35, O36, O37, O44, O45, O49.
-/
namespace Sys2Proof.Machine

/-! ### The derived figures (R41, R43) -/

/-- Settles O37. -/
theorem envelopeFigures : Obligations.EnvelopeFigures := by
  intro e
  refine ⟨fun h => ?_, fun h => ?_, Nat.sub_add_cancel, Nat.sub_eq_zero_of_le, fun h => ?_, fun h => ?_⟩
  · simp only [Envelope.effective, h, Bool.false_eq_true, if_false]
  · simp only [Envelope.effective, h, if_true]
  · simp only [Envelope.inForce, h, Bool.false_eq_true, if_false]
  · simp only [Envelope.inForce, h, if_true]

/-! ### SITE LIMIT and LOAD REPORT (R38, R39) -/

theorem SameBut.total {l : List Block} {s t : State} (f : SameBut l s t) (hb : Block.bays ∉ l) : t.total = s.total := by
  simp only [State.total, f.bay hb]

theorem State.take_total (s : State) (p : Port) : (s.take p).total = s.total := (s.take_frame p).total (by simp)

/-- An early-round request writes no port (R78, R79). -/
theorem EarlyRound.port {s t : State} (r : EarlyRound s t) (p : Port) : t.port p = s.port p := by
  unfold EarlyRound at r
  split at r
  · rw [r]
  · split at r
    · rw [r]; rfl
    · exact r.frame.port (by simp) p

/-- `t` is `s` after an early-round request that is raised where `c` holds alone. -/
structure RequestsIf (c : Prop) (s t : State) : Prop where
  round : c → EarlyRound s t
  quiet : ¬ c → t = s

theorem RequestsIf.of_ite {c : Prop} [Decidable c] {s t : State} (r : EarlyRound s t) :
    RequestsIf c s (if c then t else s) where
  round h := by rw [if_pos h]; exact r
  quiet h := if_neg h

theorem RequestsIf.ite {c : Prop} [Decidable c] {s t : State} (r : RequestsIf c s t) :
    if c then EarlyRound s t else t = s := ite_prop_iff_and.mpr ⟨r.round, r.quiet⟩

theorem RequestsIf.port {c : Prop} {s t : State} (r : RequestsIf c s t) (p : Port) : t.port p = s.port p := by
  by_cases h : c
  · exact (r.round h).port p
  · rw [r.quiet h]

/-- The request that SITE LIMIT and LOAD REPORT raise is raised where the total allowance exceeds Env (R38, R39). -/
theorem State.requestIfExceeded_spec (s : State) : RequestsIf (s.env.inForce < s.total) s s.requestIfExceeded :=
  .of_ite s.requestEarly_spec

/-- A site request that changes the envelope to `u`: answered OK after the request of an early round where the total
allowance exceeds Env. -/
theorem State.handle_envelope {s u : State} {k : Kind} {m : Msg} {body : Msg → State → State × Option Msg}
    (ht : s.Takes .s k m) (hp : k.Passes .s m) (f : SameBut [.env, .sset] (s.take .s) u)
    (hb : body m (s.take .s) = done m u.requestIfExceeded false) :
    ∃ v, s.handle k .s body = v.sends .s (m.answer 0) ∧ RequestsIf (u.env.inForce < s.total) u v := by
  have total : u.total = s.total := (f.total (by simp)).trans (s.take_total .s)
  have request := u.requestIfExceeded_spec
  rw [total] at request
  generalize u.requestIfExceeded = v at request hb
  have attached : (v.port .s).health ≠ .detached := by
    rw [request.port, f.port (by simp)]; exact ht.attached
  exact ⟨v, State.handle_ok ht hp hb attached, request⟩

/-- A new envelope, with ENVELOPE EXCEEDED evaluated (R48). -/
def State.setEnvelope (s : State) (x : Envelope) : State := State.evalExceeded { s with env := x }

/-- What that leaves. -/
structure SetsEnvelope (s t : State) (x : Envelope) : Prop where
  env : t.env = x
  sset : t.sset = s.sset.setCond SFlag.envelopeExceeded.bit (decide (t.env.inForce < s.total))
  frame : SameBut [.env, .sset] s t

theorem State.setEnvelope_spec (s : State) (x : Envelope) : SetsEnvelope s (s.setEnvelope x) x := by
  have env : (s.setEnvelope x).env = x := State.evalExceeded_env _
  exact ⟨env, by rw [env]; exact State.evalExceeded_sset _,
    (env_frame s x).comp (State.evalExceeded_frame _) (by simp) (by simp)⟩

/-- The envelope of a SITE LIMIT (R38). -/
def Envelope.limited (x : Envelope) (n : Nat) : Envelope := { x with pSite := n }

/-- The envelope of a LOAD REPORT (R39). -/
def Envelope.reported (x : Envelope) (n : Nat) : Envelope := { x with other := n, stale := false, rounds := 0 }

theorem siteLimitBody_eq {m : Msg} {hi lo : Byte} (hl : m.payload = [hi, lo]) (s : State) : siteLimitBody m s =
    done m (s.setEnvelope (s.env.limited (field16 hi lo))).requestIfExceeded false := by
  simp only [siteLimitBody, hl, State.setEnvelope, Envelope.limited]

theorem loadReportBody_eq {m : Msg} {hi lo : Byte} (hl : m.payload = [hi, lo]) (s : State) : loadReportBody m s =
    done m (s.setEnvelope (s.env.reported (field16 hi lo))).evalLoadStale.requestIfExceeded false := by
  simp only [loadReportBody, hl, State.setEnvelope, Envelope.reported]

/-- Settles O35. -/
theorem siteLimitSetsTheLimit : Obligations.SiteLimitSetsTheLimit := by
  intro s m hi lo ht hu hl
  have passes : Kind.siteLimit.Passes .s m := ⟨rfl, by rw [hl]; rfl, by rw [hu]; rfl⟩
  have E := (s.take .s).setEnvelope_spec ((s.take .s).env.limited (field16 hi lo))
  have body := siteLimitBody_eq hl (s.take .s)
  generalize State.setEnvelope _ _ = u at E body
  obtain ⟨v, acts, request⟩ := State.handle_envelope ht passes E.frame body
  have sset := E.sset
  rw [State.take_total] at sset
  -- The total sums 32 bays; under a name of its own it is not computed.
  generalize s.total = total at sset request ⊢
  exact ⟨u, v, congrArg Host.Outcome.next acts, E.env, sset, E.frame, request.ite⟩

/-- Settles O36. -/
theorem loadReportSetsTheLoad : Obligations.LoadReportSetsTheLoad := by
  intro s m hi lo ht hu hl
  have passes : Kind.loadReport.Passes .s m := ⟨rfl, by rw [hl]; rfl, by rw [hu]; rfl⟩
  have E := (s.take .s).setEnvelope_spec ((s.take .s).env.reported (field16 hi lo))
  have body := loadReportBody_eq hl (s.take .s)
  generalize State.setEnvelope _ _ = w at E body
  have frame : SameBut [.env, .sset] (s.take .s) w.evalLoadStale :=
    E.frame.comp w.evalLoadStale_frame (by simp) (by simp)
  obtain ⟨v, acts, request⟩ := State.handle_envelope ht passes frame body
  have sset : w.evalLoadStale.sset = w.sset.setCond SFlag.loadStale.bit w.env.stale := State.evalLoadStale_sset w
  rw [E.sset, State.take_total, show w.env.stale = false from congrArg Envelope.stale E.env] at sset
  -- The total sums 32 bays; under a name of its own it is not computed.
  generalize s.total = total at sset request ⊢
  exact ⟨w.evalLoadStale, v, congrArg Host.Outcome.next acts, E.env, sset, frame, request.ite⟩

/-! ### Load shedding (R44, R45, R92) -/

theorem pins_frame (s : State) (x : Pins) : SameBut [.pins] s { s with pins := x } := by
  intro k hk
  cases k with
  | pins => simp at hk
  | _ => rfl

theorem execShedRelease_releases {s : State} (hr : s.resetLow = false) (hd : s.dedicated 0 = true)
    (hg : s.pins.gp0 = false) :
    execShedRelease s = .next (State.handShed { s with pins := { s.pins with gp0 := true } } false) := by
  simp only [execShedRelease, hr, hd, hg, Bool.not_false, Bool.and_self, if_true, State.releaseShed_eq]

/-- Settles O45. -/
theorem shedReleaseRestoresTheEnvelope : Obligations.ShedReleaseRestoresTheEnvelope := by
  intro s hr hd hg
  let high : State := { s with pins := { s.pins with gp0 := true } }
  have H := high.handShed_spec false
  have sset : (high.handShed false).sset = (s.sset.setCond SFlag.shedActive.bit false).setCond SFlag.envelopeExceeded.bit
      (decide ((high.handShed false).env.inForce < s.total)) := by
    rw [H.env, State.handShed, State.evalExceeded_sset, State.evalShed_sset]; rfl
  have exec_eq : exec .shedRelease s = .next (high.handShed false) := execShedRelease_releases hr hd hg
  refine ⟨high.handShed false, exec_eq, H.env, ?_, H.frame .pins (by simp), sset,
    (pins_frame s _).comp H.frame (by simp) (by simp)⟩
  rw [H.env]; rfl

/-- The shed in force, as a GP0 dedicated to SHED brings it (R42, R44). -/
def State.shedding (s : State) : State :=
  { s with pins := { s.pins with gp0 := false }, env := { s.env with shed := true } }

theorem State.shedding_frame (s : State) : SameBut [.pins, .env] s s.shedding := by
  intro k hk
  cases k with
  | pins | env => simp at hk
  | _ => rfl

/-- The value a shed assertion publishes at bay `b`, if any (R44, R92). -/
def State.shedValue (s : State) (b : Fin 32) : Option Nat :=
  if s.mode ≠ .configure ∧ (s.bay b).reachable = true ∧ 0 < (s.bay b).published then
    some (halved s.settings.pminInForce (s.bay b).published)
  else none

/-- The halving of a shed assertion, which CONFIGURE leaves out (R44). -/
def State.shedHalving (s : State) : State := if s.mode = .configure then s else s.halveAll

theorem State.shedHalving_spec (s : State) : Walks s s.shedHalving allBays s.shedValue := by
  unfold State.shedHalving
  by_cases h : s.mode = .configure
  · have none_published : ∀ b, s.shedValue b = none := fun b => if_neg fun c => c.1 h
    rw [if_pos h]
    refine ⟨fun b => ?_, fun b => ?_, fun _ => LinkPort.Kicked.refl _, NoticeSet.SameBut.refl _ _, SameBut.refl _ s⟩
    · rw [none_published, if_pos (mem_allBays b)]; rfl
    · rw [none_published, if_pos (mem_allBays b)]; rfl
  · have published : s.shedValue = fun b =>
        if (s.bay b).reachable = true ∧ 0 < (s.bay b).published then
          some (halved s.settings.pminInForce (s.bay b).published) else none := by
      funext b; simp only [State.shedValue, h, ne_eq, not_false_eq_true, true_and]
    rw [if_neg h, published]
    exact s.halveAll_spec

/-- What the halving says of one bay and its board place. -/
theorem Walks.shed {s t : State} (w : Walks s t allBays s.shedValue) (b : Fin 32) :
    if s.mode ≠ .configure ∧ (s.bay b).reachable = true ∧ 0 < (s.bay b).published then
      t.bay b = { s.bay b with published := halved s.settings.pminInForce (s.bay b).published, seq := (s.bay b).seq + 1 } ∧
        t.board b = some (halved s.settings.pminInForce (s.bay b).published, (s.bay b).seq + 1)
    else t.bay b = s.bay b ∧ t.board b = s.board b := by
  rw [w.bay, w.board, if_pos (mem_allBays b), if_pos (mem_allBays b), State.shedValue]
  split <;> exact ⟨rfl, rfl⟩

/-- Where the shed is set already, handing it over is the two evaluations (R48, R49). -/
theorem State.handShed_of_shed {s : State} {shed : Bool} (h : s.env.shed = shed) :
    s.handShed shed = s.evalShed.evalExceeded := by subst h; rfl

theorem execShedAssertion_sheds {s : State} (hr : s.resetLow = false) (hd : s.dedicated 0 = true)
    (hg : s.pins.gp0 = true) :
    execShedAssertion s = .next s.shedding.shedHalving.evalShed.evalExceeded.requestEarly := by
  simp only [execShedAssertion, hr, hd, hg, Bool.not_false, Bool.and_self, if_true, State.assertShed, State.shedHalving,
    State.shedding]

/-- Settles O44: the halving is a walk of publications, which the conditions handed over and the early round follow. -/
theorem shedHalvesSetpoints : Obligations.ShedHalvesSetpoints := by
  intro s hr hd hg
  have W := s.shedding.shedHalving_spec
  have env : s.shedding.shedHalving.env = { s.env with shed := true } := W.frame .env (by simp)
  have acts : exec .shedAssertion s = .next (s.shedding.shedHalving.handShed true).requestEarly := by
    rw [State.handShed_of_shed (congrArg Envelope.shed env)]
    exact execShedAssertion_sheds hr hd hg
  generalize s.shedding.shedHalving = v at W env acts
  have H := v.handShed_spec true
  have round := (v.handShed true).requestEarly_spec
  generalize v.handShed true = u at acts H round
  refine ⟨u, _, acts, round, ?_, ?_, fun b => ?_, H.indicator.mpr rfl, ?_, fun p => ?_, ?_⟩
  · exact (H.frame .pins (by simp)).trans (W.frame .pins (by simp))
  · rw [H.env, env]
  · intro x y
    rw [H.frame.bay (by simp), H.frame.boardAt (by simp)]
    exact W.shed b
  · exact W.sset.comp H.sset (by decide) (by decide)
  · rw [H.frame.port (by simp)]
    exact W.ports p
  · exact (s.shedding_frame.comp W.frame (l := [.pins, .env, .bays, .board, .ports, .sset]) (by simp) (by simp)).comp H.frame
      (by simp) (by simp)

/-! ### Slots (R86, R87) -/

/-- Slot `k` begins: its slot time and those before it are past, and the budget is unused (R86, log 21). -/
def State.beginSlot (s : State) (k : Fin 4) : State :=
  { s with pub := { s.pub with used := 0, slotTimes := s.pub.slotTimes.filter fun x => k < x.1 } }

theorem execSlot_takes {s : State} {k : Fin 4} (hr : s.resetLow = false) (hm : s.mode ≠ .configure)
    (hp : s.alloc.snap = none) (hs : ∃ n, (k, n) ∈ s.pub.slotTimes) :
    execSlot k s = .next (s.alloc.order.foldl (State.evaluateAt k) (s.beginSlot k)) := by
  have due : s.slotDue k = true := by
    obtain ⟨n, hn⟩ := hs
    exact List.any_eq_true.mpr ⟨(k, n), hn, beq_self_eq_true k⟩
  have comes : (!s.resetLow && s.mode != .configure && s.alloc.snap.isNone && s.slotDue k) = true := by
    simp [hr, hm, hp, due]
  simp only [execSlot, if_pos comes]
  rfl

/-- Settles O49: the walk over the service order is the slot's, and a walk that meets no increase passes every bay over. -/
theorem slotPublishesAnIncrease : Obligations.SlotPublishesAnIncrease := by
  intro s k hr hm hp hs begun
  refine ⟨s.alloc.order.foldl (State.evaluateAt k) begun, execSlot_takes hr hm hp hs, slotTaken_walk k _ begun, fun h => ?_⟩
  exact List.foldl_fixed' (fun b => State.evaluateAt_skip (s := begun) (h b)) _

end Sys2Proof.Machine
end

section
/-!
PROOFS. The requests that change one group of settings (R46, R111, R143, R149, R152): O30.
-/
namespace Sys2Proof.Machine

/-! ### The rules of the kinds -/

section
variable {m : Msg} (s : State)

theorem vanPolicyBody_eq {pol g : Byte} (hl : m.payload = [pol, g]) : vanPolicyBody m s =
    done m { s with settings := { s.settings with courtesy := decide (pol ≠ 0), guard := min 240 g.toNat } }
      (decide (1 < pol.toNat ∨ 240 < g.toNat)) := by
  have courtesy : (pol != 0) = decide (pol ≠ 0) := by rw [Bool.eq_iff_iff]; simp
  simp only [vanPolicyBody, hl, courtesy, Bool.decide_or, maxGuard]
  rfl

theorem clampLimit_ne_iff (n : Nat) : clampLimit n ≠ n ↔ n < 6 ∨ 60 < n := by unfold clampLimit; omega

theorem replyLimitBody_eq {p : Port} {n : Byte} (hl : m.payload = [n]) (hp : p = .d ∨ p = .s) : replyLimitBody p m s =
    done m { s with settings := { s.settings with
        limitD := if p = Port.d then max 6 (min 60 n.toNat) else s.settings.limitD
        limitS := if p = Port.s then max 6 (min 60 n.toNat) else s.settings.limitS } }
      (decide (n.toNat < 6 ∨ 60 < n.toNat)) := by
  have clamped : (clampLimit n.toNat != n.toNat) = decide (n.toNat < 6 ∨ 60 < n.toNat) := by
    rw [Bool.eq_iff_iff, bne_iff_ne, decide_eq_true_eq, clampLimit_ne_iff]
  simp only [replyLimitBody, hl, clamped]
  rcases hp with rfl | rfl <;> rfl

theorem clampRound_ne_iff (n : Nat) : clampRound n ≠ n ↔ n % 4 ≠ 0 ∨ n < 8 ∨ 120 < n := by unfold clampRound; omega

theorem allocationSetupBody_refuses {p1 p0 r : Byte} (hl : m.payload = [p1, p0, r]) (hm : s.mode ≠ .configure) :
    allocationSetupBody m s = refuse m s .wrongMode := by
  simp only [allocationSetupBody, hl, if_neg hm]

theorem allocationSetupBody_eq {p1 p0 r : Byte} (hl : m.payload = [p1, p0, r]) (hm : s.mode = .configure) :
    allocationSetupBody m s =
      done m { s with settings := { s.settings with
          pmin := min 500 (field16 p1 p0), roundLength := max 8 (min 120 (r.toNat / 4 * 4)) } }
        (decide (500 < field16 p1 p0 ∨ r.toNat % 4 ≠ 0 ∨ r.toNat < 8 ∨ 120 < r.toNat)) := by
  have clamped : (decide (maxPmin < field16 p1 p0) || clampRound r.toNat != r.toNat) =
      decide (500 < field16 p1 p0 ∨ r.toNat % 4 ≠ 0 ∨ r.toNat < 8 ∨ 120 < r.toNat) := by
    rw [Bool.eq_iff_iff, Bool.or_eq_true, decide_eq_true_eq, bne_iff_ne, decide_eq_true_eq, clampRound_ne_iff]; rfl
  simp only [allocationSetupBody, hl, if_pos hm, clamped]
  rfl

theorem rampLimitBody_eq {hi lo : Byte} (hl : m.payload = [hi, lo]) :
    rampLimitBody m s = done m { s with env := { s.env with ramp := field16 hi lo } } false := by
  simp only [rampLimitBody, hl]

theorem pinWriteBody_eq {l : Byte} (hl : m.payload = [l]) :
    pinWriteBody m s = done m { s with pins := { s.pins with latch := l } } false := by
  simp only [pinWriteBody, hl]

end

/-! ### The requests -/

/-- Settles O30. -/
theorem settingRequests : Obligations.SettingRequests := by
  refine ⟨fun s m pol g ht hu hl => ?_, fun s p m n hp ht hu hl => ?_, fun s m p1 p0 r ht hu hl => ?_,
    fun s m hi lo ht hu hl => ?_, fun s m l ht hu hl => ?_⟩
  · have passes : Kind.vanPolicy.Passes .d m := ⟨rfl, by rw [hl]; rfl, by rw [hu]; rfl⟩
    exact congrArg Host.Outcome.next (State.handle_clamped ht passes (vanPolicyBody_eq _ hl) ht.attached)
  · have passes : Kind.replyLimit.Passes p m :=
      ⟨by rcases hp with rfl | rfl <;> rfl, by rw [hl]; rfl, by rw [hu]; rfl⟩
    exact congrArg Host.Outcome.next (State.handle_clamped ht passes (replyLimitBody_eq _ hl hp) ht.attached)
  · have passes : Kind.allocationSetup.Passes .s m := ⟨rfl, by rw [hl]; rfl, by rw [hu]; rfl⟩
    exact ⟨fun hm => congrArg Host.Outcome.next
        (State.handle_refuse ht passes (allocationSetupBody_refuses _ hl hm)),
      fun hm => congrArg Host.Outcome.next
        (State.handle_clamped ht passes (allocationSetupBody_eq _ hl hm) ht.attached)⟩
  · have passes : Kind.rampLimit.Passes .s m := ⟨rfl, by rw [hl]; rfl, by rw [hu]; rfl⟩
    exact congrArg Host.Outcome.next (State.handle_ok ht passes (rampLimitBody_eq _ hl) ht.attached)
  · have passes : Kind.pinWrite.Passes .s m := ⟨rfl, by rw [hl]; rfl, by rw [hu]; rfl⟩
    exact congrArg Host.Outcome.next (State.handle_ok ht passes (pinWriteBody_eq _ hl) ht.attached)

end Sys2Proof.Machine
end

section
/-!
PROOFS. READ: its checks and its reply (R112), and the records of the six items byte by byte (section 6.9, R50, R154, R170,
R173): O33.
-/
namespace Sys2Proof.Machine

/-! ### The reply (R112) -/

/-- Taking the request changes no reply to it. -/
theorem State.take_readReply (s : State) (p : Port) (levels : Byte) (m : Msg) (item : Byte) :
    (s.take p).readReply p levels m item = s.readReply p levels m item := by
  simp only [State.readReply, State.take_records]
  rfl

/-- READ queues its reply, and brings a recognised rising edge of GP1 (R112, R173). -/
theorem State.handle_read {s : State} {p : Port} {pins : PinReading} {m : Msg} {item : Byte} (hp : p = .d ∨ p = .s)
    (ht : s.Takes p .read m) (hl : m.payload = [item]) : s.handle .read p (readBody p pins) =
      ((s.recognise pins.rise).take p).sends p ((s.recognise pins.rise).readReply p pins.levels m item) := by
  have passes : Kind.read.Passes p m := ⟨by rcases hp with rfl | rfl <;> rfl, by rw [hl]; rfl, rfl⟩
  have body : readBody p pins m (s.take p) =
      ((s.recognise pins.rise).take p, some ((s.recognise pins.rise).readReply p pins.levels m item)) := by
    rw [← State.take_readReply]
    simp only [readBody, hl]
    rfl
  rw [State.handle_pass _ ht passes.port passes.length passes.unit, body]
  exact State.reply_eq_sends _ ht.attached

section
variable {s : State} {p : Port} {levels : Byte} {m : Msg} {item : Byte}

theorem State.readReply_badUnit (h : ∀ top, itemTop item.toNat = some top → top < m.unit.toNat) :
    s.readReply p levels m item = m.answer Flag.badUnit.result := by
  unfold State.readReply
  cases ht : itemTop item.toNat with
  | none => rfl
  | some top => exact if_pos (h top ht)

theorem State.readReply_limitTooSmall {top : Nat} (ht : itemTop item.toNat = some top) (hi : m.unit.toNat ≤ top)
    (hf : (s.limitOf p - 3) / itemSize item.toNat = 0) (hr : m.unit.toNat < (s.records p levels item.toNat).length) :
    s.readReply p levels m item = m.answer Flag.limitTooSmall.result := by
  simp only [State.readReply, ht]
  rw [if_neg (Nat.not_lt.mpr hi), if_pos ⟨hf, hr⟩]

theorem State.readReply_data {top : Nat} (ht : itemTop item.toNat = some top) (hi : m.unit.toNat ≤ top)
    (hf : (s.limitOf p - 3) / itemSize item.toNat ≠ 0 ∨ (s.records p levels item.toNat).length ≤ m.unit.toNat) :
    s.readReply p levels m item = dataReply item m.unit.toNat (s.records p levels item.toNat)
      ((s.limitOf p - 3) / itemSize item.toNat) := by
  simp only [State.readReply, ht]
  rw [if_neg (Nat.not_lt.mpr hi), if_neg fun h => hf.elim (fun hn => hn h.1) (Nat.not_le.mpr h.2)]

end

/-- The bytes of a DATA reply (section 6.9). -/
theorem dataReply_eq (item first : Byte) (records : List (List Byte)) (n : Nat) :
    dataReply item first.toNat records n =
      { kind := 0x81, unit := first
        payload := [item, first, if first.toNat + n < records.length then BitVec.ofNat 8 (first.toNat + n) else 0xFF] ++
          ((records.drop first.toNat).take n).flatten } := by
  simp only [dataReply, BitVec.ofNat_toNat, BitVec.setWidth_eq, apply_ite (BitVec.ofNat 8)]
  rfl

/-! ### Record sizes (section 6.9) -/

theorem State.statusRecord_length (s : State) (p : Port) (pins : Byte) : (s.statusRecord p pins).length = 12 := rfl

theorem laxityField_length (r : Option PassResult) : (laxityField r).length = 2 := by cases r <;> rfl

theorem Bay.identityBytes_length (x : Bay) : x.identityBytes.length = 5 := by
  unfold Bay.identityBytes; cases x.session <;> rfl

theorem Bay.record_length (x : Bay) : x.record.length = 20 := by
  simp only [Bay.record, List.length_append, Bay.identityBytes_length, laxityField_length]; rfl

theorem rosterRecord_length (e : Option Entry) : (rosterRecord e).length = 14 := by cases e <;> rfl

theorem State.records_length {s : State} {p : Port} {pins : Byte} {item : Nat} {r : List Byte} (hi : item < 6)
    (hr : r ∈ s.records p pins item) : r.length = itemSize item := by
  match item, hi with
  | 0, _ => rw [List.mem_singleton.mp hr]; rfl
  | 1, _ =>
    obtain ⟨b, -, rfl⟩ := List.mem_map.mp hr
    exact Bay.record_length _
  | 2, _ =>
    obtain ⟨k, -, rfl⟩ := List.mem_map.mp hr
    exact rosterRecord_length _
  | 3, _ =>
    obtain ⟨b, -, rfl⟩ := List.mem_map.mp hr
    rfl
  | 4, _ => rw [List.mem_singleton.mp hr]; rfl
  | 5, _ =>
    obtain ⟨q, -, rfl⟩ := List.mem_map.mp hr
    rfl

/-! ### Pin levels (R170, R173) -/

theorem State.pinLevels_bit (s : State) (pins : Byte) (n : Fin 8) :
    (s.pinLevels pins).getLsbD n.val = s.pinLevel pins n := by
  unfold State.pinLevels
  exact BitVec.getLsbD_ofBoolListLE.trans (by simp)

section
variable {s : State} {n : Fin 8} (pins : Byte)

theorem State.pinLevel_general (h : s.dedicated n.val = false) : s.pinLevel pins n =
    if s.pins.dir.getLsbD n.val then s.pins.latch.getLsbD n.val else pins.getLsbD n.val := by
  simp only [State.pinLevel, h, Bool.false_eq_true, if_false]

theorem State.pinLevel_gp0 (h : s.dedicated n.val = true) (hn : n = 0) : s.pinLevel pins n = s.pins.gp0 := by
  subst hn; simp only [State.pinLevel, h, if_true]; rfl

theorem State.pinLevel_gp1 (h : s.dedicated n.val = true) (hn : n = 1) : s.pinLevel pins n = s.pins.gp1 := by
  subst hn; simp only [State.pinLevel, h, if_true]; rfl

/-- A DEDICATED output reads the level it drives (R170, R174). -/
theorem State.pinLevel_driven (h : s.dedicated n.val = true) (hn : 2 ≤ n.val) (hr : s.resetLow = false) :
    s.pinDrive n = some (s.pinLevel pins n) := by
  have h0 : n.val ≠ 0 := by omega
  have h1 : n.val ≠ 1 := by omega
  simp only [State.pinDrive, State.pinLevel, h, hr, h0, h1, Nat.not_lt.mpr hn, Bool.false_eq_true, if_false, if_true]

end

/-! ### Records by bytes (section 6.9) -/

theorem getElem?_map_finRange {α : Type} {n : Nat} (f : Fin n → α) (i : Fin n) :
    ((List.finRange n).map f)[i.val]? = some (f i) := by simp

/-- The Pcap word of a BAY record: Pcap, slot, reachable, resync. -/
def Bay.capWord (x : Bay) : List Byte :=
  byte2 (x.pcap % 2048 + 2048 * x.slot.val + (if x.reachable then 8192 else 0) + if x.resync then 16384 else 0)

/-- The setpoints of a BAY record: published setpoint and sequence, confirmed setpoint. -/
def Bay.setpointBytes (x : Bay) : List Byte := byte2 (x.published % 2048 + 2048 * x.seq.toNat) ++ byte2 x.confirmed

theorem Bay.record_unfitted {x : Bay} (h : x.occ = .unfitted) :
    x.record = [0x00, 0, 0, 0, 0xFF, 0] ++ x.capWord ++ [0, 0, 0, 0] ++ x.setpointBytes ++ [0, 0, 0, 0] := by
  have out : x.session = none := by simp only [Bay.session, h]
  simp only [Bay.record, Bay.identityBytes, out, h]
  rfl

theorem Bay.record_vacant {x : Bay} (h : x.occ = .vacant) :
    x.record = [0x01, 0, 0, 0, 0xFF, 0] ++ x.capWord ++ [0, 0, 0, 0] ++ x.setpointBytes ++ [0, 0, 0, 0] := by
  have out : x.session = none := by simp only [Bay.session, h]
  simp only [Bay.record, Bay.identityBytes, out, h]
  rfl

/-- The layout of a BAY record in session: the state code, the disposition code with the roster slot byte, the fault code
and the last pass results in their places. -/
def Bay.sessionRecord (x : Bay) (y : Session) (state : Nat) (disp : Nat × Byte) (fault : Byte) (last : List Byte) : List Byte :=
  byte1 (state + 16 * disp.1) ++ byte3 y.tag ++ [disp.2, fault] ++ x.capWord ++ byte2 y.pveh ++ byte2 y.delivered ++
    x.setpointBytes ++ last

theorem Bay.record_session {x : Bay} {y : Session} (h : x.occ = .session y) : x.record =
    x.sessionRecord y x.occ.code (y.disp.code, y.disp.slotByte) y.phase.faultByte
      (byte2 (resultWord y.last) ++ laxityField y.last) := by
  have occupied : x.session = some y := Bay.session_eq_some.mpr h
  simp only [Bay.record, Bay.identityBytes, occupied]
  rfl

theorem Bay.sessionRecord_congr {x : Bay} {y : Session} {state state' : Nat} {disp disp' : Nat × Byte} {fault fault' : Byte}
    {last last' : List Byte} (hs : state = state') (hd : disp = disp') (hf : fault = fault') (hl : last = last') :
    x.sessionRecord y state disp fault last = x.sessionRecord y state' disp' fault' last' := by
  rw [hs, hd, hf, hl]

theorem records_bay {s : State} {p : Port} {pins : Byte} {b : Fin 32} {r : List Byte}
    (h : (s.records p pins 1)[b.val]? = some r) : r = (s.bay b).record :=
  Option.some.inj (h.symm.trans (getElem?_map_finRange (fun b => (s.bay b).record) b))

theorem records_entry {s : State} {p : Port} {pins : Byte} {j : Fin 64} {r : List Byte}
    (h : (s.records p pins 2)[j.val]? = some r) : r = rosterRecord (s.entry j) :=
  Option.some.inj (h.symm.trans (getElem?_map_finRange (fun k => rosterRecord (s.entry k)) j))

/-! ### The claim -/

/-- Settles O33. -/
theorem readReturnsRecords : Obligations.ReadReturnsRecords := by
  refine ⟨?replies, fun s p pins item r hi hr => State.records_length hi hr, ?layouts⟩
  case replies =>
    intro s p pins m item hp ht hl t records fit first
    have acts : exec (.read p pins) s = .next ((t.take p).sends p (t.readReply p pins.levels m item)) :=
      congrArg Host.Outcome.next (State.handle_read hp ht hl)
    have limit : (t.limitOf p - 3) / itemSize item.toNat = fit := rfl
    clear_value t fit
    refine ⟨fun h => ?_, fun top hi hf h0 hr => ?_, fun top hi hf h => ?_⟩
    · rw [acts, State.readReply_badUnit h]
    · rw [acts, State.readReply_limitTooSmall hi hf (limit.trans h0) hr]
    · rw [acts, State.readReply_data hi hf (by rw [limit]; exact h), dataReply_eq, limit]
  case layouts =>
    intro s p pins bit modeCode
    have code : ∀ x : Mode, BitVec.ofNat 8 x.code = modeCode x := fun x => by cases x <;> rfl
    refine ⟨⟨s.pinLevels pins, ?_, fun n => ?_⟩, ⟨?_, fun b r hr => ?_⟩, ⟨?_, fun j r hr => ?_⟩, rfl, rfl, ?_⟩
    · change [s.statusRecord p pins] = _
      unfold State.statusRecord
      rw [← code]
      cases s.pendingMode with
      | none => rfl
      | some x => simp only [← code]; rfl
    · rw [State.pinLevels_bit]
      exact ⟨State.pinLevel_general pins, State.pinLevel_gp0 pins, State.pinLevel_gp1 pins, State.pinLevel_driven pins⟩
    · exact (List.length_map _).trans List.length_finRange
    · intro x capWord setpoints
      rw [records_bay hr]
      split
      · exact Bay.record_unfitted ‹_›
      · exact Bay.record_vacant ‹_›
      · rename_i y h
        obtain ⟨phase, disp, tag, pveh, delivered, power, last⟩ := y
        refine (Bay.record_session h).trans (Bay.sessionRecord_congr ?_ ?_ ?_ ?_)
        · rw [h]; cases phase <;> rfl
        · cases disp <;> rfl
        · cases phase <;> rfl
        · cases last <;> dsimp only <;> rfl
    · exact (List.length_map _).trans List.length_finRange
    · rw [records_entry hr]
      split
      · rename_i free
        rw [free]; rfl
      · rename_i e held
        rw [held]
        obtain ⟨tag, departure, target, cls, barred, state, last⟩ := e
        cases state with
        | waiting | departed => cases last <;> dsimp only [rosterRecord] <;> rfl
        | plugged b overdue => cases last <;> dsimp only [rosterRecord] <;> rfl
    · refine List.map_congr_left fun q _ => ?_
      unfold LinkPort.record
      cases (s.port q).health <;> rfl

end Sys2Proof.Machine
end

section
/-!
PROOFS. The service order of a pass (R67): O53.
-/
namespace Sys2Proof.Machine

/-! ### The service order (R67) -/

/-- The keys of the rostered part of a service order, bay number last, in lexicographic order (R67). -/
def Snapshot.rank (sn : Snapshot) (b : Fin 32) : ℕ ×ₗ ℤ ×ₗ ℕ ×ₗ Fin 32 :=
  toLex ((sn.keys b).1, toLex ((sn.keys b).2.1, toLex ((sn.keys b).2.2, b)))

/-- The model's comparison of two bays is the lexicographic one (R67). -/
theorem Snapshot.before_iff_rank_le (sn : Snapshot) (a b : Fin 32) : sn.before a b = true ↔ sn.rank a ≤ sn.rank b := by
  simp [Snapshot.before, Snapshot.rank, Prod.Lex.toLex_le_toLex]

theorem Snapshot.rank_injective (sn : Snapshot) : Function.Injective sn.rank := fun _ _ h =>
  congrArg (fun r => (ofLex (ofLex (ofLex r).2).2).2) h

theorem Snapshot.rosteredPart_sorted (sn : Snapshot) : sn.rosteredPart.Pairwise fun a b => sn.rank a ≤ sn.rank b := by
  have total : Std.Total fun a b => sn.before a b = true :=
    ⟨fun a b => by simp only [sn.before_iff_rank_le]; exact le_total _ _⟩
  have trans : IsTrans (Fin 32) fun a b => sn.before a b = true :=
    ⟨fun a b c => by simp only [sn.before_iff_rank_le]; exact le_trans⟩
  exact (List.pairwise_insertionSort _ _).imp fun h => (sn.before_iff_rank_le _ _).mp h

theorem Snapshot.mem_rosteredPart {sn : Snapshot} {b : Fin 32} :
    b ∈ sn.rosteredPart ↔ sn.eligible b = true ∧ (sn.at b).isRostered = true := by
  simp [Snapshot.rosteredPart]

theorem Snapshot.mem_courtesyPart {sn : Snapshot} {b : Fin 32} :
    b ∈ sn.courtesyPart ↔ sn.eligible b = true ∧ (sn.at b).isRostered = false := by
  simp [Snapshot.courtesyPart]

theorem Snapshot.mem_order_iff {sn : Snapshot} {b : Fin 32} : b ∈ sn.order ↔ sn.eligible b = true := by
  refine ⟨fun h => ?_, Snapshot.mem_order⟩
  rcases List.mem_append.mp h with hr | hc
  · exact (Snapshot.mem_rosteredPart.mp hr).1
  · exact (Snapshot.mem_courtesyPart.mp hc).1

theorem Snapshot.rosteredPart_nodup (sn : Snapshot) : sn.rosteredPart.Nodup := sn.order_nodup.of_append_left

/-- The courtesy part stands in the order of the bay numbers (R67). -/
theorem Snapshot.courtesyPart_sorted (sn : Snapshot) : sn.courtesyPart.Pairwise (· < ·) :=
  (List.pairwise_lt_finRange 32).filter _

/-- Settles O53: the rostered part is sorted by a rank no two bays share, the courtesy part is filtered from the bays in
number order, and the first stands before the second. -/
theorem serviceOrder : Obligations.ServiceOrder := by
  intro sn
  refine ⟨fun b => Snapshot.mem_order_iff, sn.order_nodup, List.pairwise_append.mpr ⟨?rostered, ?courtesy, ?across⟩⟩
  case rostered =>
    have strict := sn.rosteredPart_sorted.and sn.rosteredPart_nodup
    refine strict.imp_of_mem fun ha hb ⟨le, ne⟩ => .inr (.inl ⟨?_, ?_, ?_⟩)
    · exact (Snapshot.mem_rosteredPart.mp ha).2
    · exact (Snapshot.mem_rosteredPart.mp hb).2
    · exact lt_of_le_of_ne le fun e => ne (sn.rank_injective e)
  case courtesy =>
    refine sn.courtesyPart_sorted.imp_of_mem fun ha hb lt => .inr (.inr ⟨?_, ?_, lt⟩)
    · exact (Snapshot.mem_courtesyPart.mp ha).2
    · exact (Snapshot.mem_courtesyPart.mp hb).2
  case across =>
    exact fun a ha b hb => .inl ⟨(Snapshot.mem_rosteredPart.mp ha).2, (Snapshot.mem_courtesyPart.mp hb).2⟩

end Sys2Proof.Machine
end

section
/-!
PROOFS. The grants of a pass (R69, R70, R71): O52.
-/
namespace Sys2Proof.Machine

/-! ### The figures of an eligible bay (R57, R58, R61, R64) -/

theorem demandOf_le_plim {pmin plim : Nat} (h : pmin ≤ plim) (pReq : Nat) : demandOf pmin pReq plim ≤ plim := by
  simp only [demandOf]
  split <;> omega

/-- The eligible bays, condition by condition (R58, R64). -/
theorem Snapshot.eligible_iff {sn : Snapshot} {b : Fin 32} : sn.eligible b = true ↔
    ∃ y, (sn.at b).bay.session = some y ∧ y.phase = .active ∧ (sn.at b).health ≠ .detached ∧
      (sn.at b).fresh = true ∧ sn.pmin ≤ (sn.at b).plim y ∧ (sn.at b).plim y ≠ 0 := by
  cases hs : (sn.at b).bay.session with
  | none => simp [Snapshot.eligible, hs]
  | some y => simp [Snapshot.eligible, hs, belowMinimum, and_assoc]

/-- An eligible bay's Plim reaches Pmin, and its demand lies within Plim (R61, R64). -/
theorem Snapshot.eligible_figures {sn : Snapshot} {b : Fin 32} (h : sn.eligible b = true) :
    sn.pmin ≤ sn.plim b ∧ sn.demand b ≤ sn.plim b := by
  obtain ⟨y, hs, hp, -, -, hm, -⟩ := Snapshot.eligible_iff.mp h
  cases he : (sn.at b).entry with
  | none => simpa [Snapshot.plim, Snapshot.demand, Snapshot.figures, hs, hp, he, Snapshot.plainFigures] using hm
  | some e =>
    simpa [Snapshot.plim, Snapshot.demand, Snapshot.figures, hs, hp, he, Snapshot.activeFigures, hm] using
      demandOf_le_plim hm _

theorem Snapshot.eligible_not_frozen {sn : Snapshot} {b : Fin 32} (h : sn.eligible b = true) : sn.frozen b = false := by
  obtain ⟨y, hs, -, attached, fresh, -⟩ := Snapshot.eligible_iff.mp h
  simp [Snapshot.frozen, attached, fresh]

/-! ### The two phases (R69, R70) -/

/-- What both phases keep of a bay's grant: it is 0, or lies from Pmin to the pass Plim (R71). -/
def Snapshot.Fits (sn : Snapshot) (p : Fin 32 × Nat) : Prop := p.2 = 0 ∨ (sn.pmin ≤ p.2 ∧ p.2 ≤ sn.plim p.1)

/-- The required phase serves the bays given, in their order. -/
theorem Snapshot.requiredPhase_bays (sn : Snapshot) (l : List (Fin 32)) (rem : Nat) :
    (sn.requiredPhase rem l).1.map Prod.fst = l := by
  induction l generalizing rem with
  | nil => rfl
  | cons b l ih => exact congrArg (b :: ·) (ih _)

/-- The required phase parts the amount given into the grants and what remains. -/
theorem Snapshot.requiredPhase_sum (sn : Snapshot) (l : List (Fin 32)) (rem : Nat) :
    ((sn.requiredPhase rem l).1.map Prod.snd).sum + (sn.requiredPhase rem l).2 = rem := by
  induction l generalizing rem with
  | nil => simp [Snapshot.requiredPhase]
  | cons b l ih =>
    simp only [Snapshot.requiredPhase, List.map_cons, List.sum_cons, add_assoc, ih]
    split <;> omega

theorem Snapshot.requiredPhase_fits (sn : Snapshot) (l : List (Fin 32)) (rem : Nat)
    (h : ∀ b ∈ l, sn.demand b ≤ sn.plim b) : ∀ p ∈ (sn.requiredPhase rem l).1, sn.Fits p := by
  induction l generalizing rem with
  | nil => simp [Snapshot.requiredPhase]
  | cons b l ih =>
    have hb := h b List.mem_cons_self
    refine List.forall_mem_cons.mpr ⟨?_, ih _ fun a ha => h a (List.mem_cons_of_mem b ha)⟩
    simp only [Snapshot.Fits]
    split <;> omega

/-- What the headroom phase adds to the grant of one bay (R70). -/
def Snapshot.headroom (sn : Snapshot) (rem : Nat) (p : Fin 32 × Nat) : Nat :=
  if p.2 + min (sn.plim p.1 - p.2) rem < sn.pmin then 0 else min (sn.plim p.1 - p.2) rem

theorem Snapshot.headroomPhase_cons (sn : Snapshot) (rem : Nat) (p : Fin 32 × Nat) (l : List (Fin 32 × Nat)) :
    sn.headroomPhase rem (p :: l) =
      (p.1, p.2 + sn.headroom rem p) :: sn.headroomPhase (rem - sn.headroom rem p) l := rfl

theorem Snapshot.headroom_le (sn : Snapshot) (rem : Nat) (p : Fin 32 × Nat) : sn.headroom rem p ≤ rem := by
  unfold Snapshot.headroom
  split <;> omega

theorem Snapshot.Fits.headroom {sn : Snapshot} {p : Fin 32 × Nat} (h : sn.Fits p) (rem : Nat) :
    sn.Fits (p.1, p.2 + sn.headroom rem p) := by
  simp only [Snapshot.Fits, Snapshot.headroom] at h ⊢
  split <;> omega

theorem Snapshot.headroomPhase_bays (sn : Snapshot) (l : List (Fin 32 × Nat)) (rem : Nat) :
    (sn.headroomPhase rem l).map Prod.fst = l.map Prod.fst := by
  induction l generalizing rem with
  | nil => rfl
  | cons p l ih => exact congrArg (p.1 :: ·) (ih _)

/-- The headroom phase adds the amount given at most. -/
theorem Snapshot.headroomPhase_sum_le (sn : Snapshot) (l : List (Fin 32 × Nat)) (rem : Nat) :
    ((sn.headroomPhase rem l).map Prod.snd).sum ≤ (l.map Prod.snd).sum + rem := by
  induction l generalizing rem with
  | nil => simp [Snapshot.headroomPhase]
  | cons p l ih =>
    have rest := ih (rem - sn.headroom rem p)
    have first := sn.headroom_le rem p
    simp only [Snapshot.headroomPhase_cons, List.map_cons, List.sum_cons]
    omega

theorem Snapshot.headroomPhase_fits (sn : Snapshot) (l : List (Fin 32 × Nat)) (rem : Nat) (h : ∀ p ∈ l, sn.Fits p) :
    ∀ p ∈ sn.headroomPhase rem l, sn.Fits p := by
  induction l generalizing rem with
  | nil => simp [Snapshot.headroomPhase]
  | cons p l ih =>
    have hp := h p List.mem_cons_self
    exact List.forall_mem_cons.mpr ⟨hp.headroom rem, ih _ fun a ha => h a (List.mem_cons_of_mem p ha)⟩

/-! ### The shares and the grants -/

theorem Snapshot.shares_bays (sn : Snapshot) : sn.shares.map Prod.fst = sn.order := by
  simp [Snapshot.shares, Snapshot.headroomPhase_bays, Snapshot.requiredPhase_bays, Snapshot.order, Function.comp_def]

theorem Snapshot.shares_sum_le (sn : Snapshot) : (sn.shares.map Prod.snd).sum ≤ sn.available := by
  have required := sn.requiredPhase_sum sn.rosteredPart sn.available
  refine (sn.headroomPhase_sum_le _ _).trans ?_
  simp [Function.comp_def, required]

theorem Snapshot.shares_fit (sn : Snapshot) : ∀ p ∈ sn.shares, sn.Fits p := by
  have rostered := sn.requiredPhase_fits sn.rosteredPart sn.available fun b hb =>
    (Snapshot.eligible_figures (Snapshot.mem_order_iff.mp (List.mem_append_left _ hb))).2
  refine sn.headroomPhase_fits _ _ fun p hp => ?_
  rcases List.mem_append.mp hp with hr | hc
  · exact rostered p hr
  · obtain ⟨b, _, rfl⟩ := List.mem_map.mp hc
    exact .inl rfl

/-- A list without repeated keys is read back by looking each of its keys up. -/
theorem map_lookup_keys {α : Type} [DecidableEq α] (l : List (α × Nat)) (h : (l.map Prod.fst).Nodup) :
    (l.map Prod.fst).map (fun a => (a, (l.lookup a).getD 0)) = l := by
  induction l with
  | nil => rfl
  | cons p l ih =>
    obtain ⟨k, v⟩ := p
    obtain ⟨hk, hl⟩ := List.nodup_cons.mp h
    have tail : ∀ a ∈ l.map Prod.fst, ((k, v) :: l).lookup a = l.lookup a := fun a ha => by
      have ne : (a == k) = false := beq_false_of_ne fun e => hk (e ▸ ha)
      simp only [List.lookup_cons, ne]
    simp only [List.map_cons, List.lookup_cons_self, Option.getD_some]
    exact congrArg ((k, v) :: ·) ((List.map_congr_left fun a ha => by rw [tail a ha]).trans (ih hl))

theorem Snapshot.grant_of_eligible {sn : Snapshot} {b : Fin 32} (h : sn.eligible b = true) :
    sn.grant b = (sn.shares.lookup b).getD 0 := by
  simp [Snapshot.grant, Snapshot.grantFrom, Snapshot.eligible_not_frozen h]

theorem Snapshot.grant_of_frozen {sn : Snapshot} {b : Fin 32} (h : sn.frozen b = true) :
    sn.grant b = (sn.at b).bay.published := if_pos h

theorem Snapshot.grant_of_zero_class {sn : Snapshot} {b : Fin 32} (he : sn.eligible b = false) (hf : sn.frozen b = false) :
    sn.grant b = 0 := by
  have absent : sn.shares.lookup b = none := List.lookup_eq_none_iff.mpr fun p hp => by
    have listed : p.1 ∈ sn.order := sn.shares_bays ▸ List.mem_map_of_mem hp
    refine bne_iff_ne.mpr fun e => ?_
    rw [e, Snapshot.mem_order_iff.mp listed] at he
    cases he
  simp [Snapshot.grant, Snapshot.grantFrom, hf, absent]

/-- The shares of the two phases are the grants along the service order. -/
theorem Snapshot.shares_eq (sn : Snapshot) : sn.shares = sn.order.map fun b => (b, sn.grant b) := by
  refine (map_lookup_keys sn.shares (sn.shares_bays ▸ sn.order_nodup)).symm.trans ?_
  rw [sn.shares_bays]
  exact List.map_congr_left fun b hb => by rw [Snapshot.grant_of_eligible (Snapshot.mem_order_iff.mp hb)]

theorem Snapshot.order_perm_eligible (sn : Snapshot) : sn.order.Perm (allBays.filter sn.eligible) :=
  (List.perm_ext_iff_of_nodup sn.order_nodup (allBays_nodup.filter _)).mpr fun b => by simp [Snapshot.mem_order_iff]

theorem Snapshot.eligible_grants_le (sn : Snapshot) :
    ((allBays.filter sn.eligible).map sn.grant).sum ≤ sn.available := by
  have along : sn.order.map sn.grant = sn.shares.map Prod.snd := by simp [sn.shares_eq, Function.comp_def]
  rw [← (sn.order_perm_eligible.map sn.grant).sum_eq, along]
  exact sn.shares_sum_le

theorem Snapshot.grant_fits {sn : Snapshot} {b : Fin 32} (h : sn.eligible b = true) : sn.Fits (b, sn.grant b) := by
  have listed : b ∈ sn.order := Snapshot.mem_order_iff.mpr h
  exact sn.shares_fit _ (sn.shares_eq ▸ List.mem_map_of_mem listed)

/-- The grants of the frozen bays stay within the reserve (R66). -/
theorem Snapshot.frozen_grants_le (sn : Snapshot) : ((allBays.filter sn.frozen).map sn.grant).sum ≤ sn.reserve :=
  List.sum_le_sum fun b hb => by
    rw [Snapshot.grant_of_frozen (List.mem_filter.mp hb).2]
    exact le_max_left _ _

/-- Of any bays, the eligible and the frozen hold every grant. -/
theorem Snapshot.sum_grants (sn : Snapshot) (l : List (Fin 32)) : (l.map sn.grant).sum =
    ((l.filter sn.eligible).map sn.grant).sum + ((l.filter sn.frozen).map sn.grant).sum := by
  induction l with
  | nil => rfl
  | cons b l ih =>
    rcases Bool.eq_false_or_eq_true (sn.eligible b) with he | he
    · simp [he, Snapshot.eligible_not_frozen he, ih, add_assoc]
    · rcases Bool.eq_false_or_eq_true (sn.frozen b) with hf | hf
      · simp [he, hf, ih, add_left_comm]
      · simp [he, hf, ih, Snapshot.grant_of_zero_class he hf]

/-- Settles O52: the phases keep within A, and the reserve covers the frozen bays. -/
theorem grantsOfAPass : Obligations.GrantsOfAPass := by
  intro sn
  refine ⟨sn.eligible_grants_le, fun b => Snapshot.grant_fits, fun b => Snapshot.grant_of_zero_class,
    fun b => Snapshot.grant_of_frozen, ?_⟩
  have eligible := sn.eligible_grants_le
  have frozen := sn.frozen_grants_le
  rw [sn.sum_grants allBays]
  simp only [Snapshot.available] at eligible
  omega

end Sys2Proof.Machine
end

section
/-!
PROOFS. What pass completion hands over (R72, R82 to R86): O47.
-/
namespace Sys2Proof.Machine

/-! ### Last pass results and the service order (R72) -/

/-- The last pass results of bay `b`, whose figures are `f` (R72). -/
def Snapshot.resultAt (sn : Snapshot) (b : Fin 32) (f : Figures) : PassResult :=
  { grant := sn.grant b, late := f.late, atRisk := f.atRisk, belowMin := f.belowMin, laxity := f.laxity }

theorem Snapshot.result_shares (sn : Snapshot) (b : Fin 32) :
    sn.result sn.shares b = (sn.figures b).map (sn.resultAt b) := rfl

/-- The occupancy `o` of bay `b` holds its last pass results (R72): written, unless the bay is marked or has no figures. -/
structure ResultTaken (s : State) (sn : Snapshot) (b : Fin 32) (o : Occupancy) : Prop where
  written : ∀ y f, s.marked b = false → sn.figures b = some f → (s.bay b).session = some y →
    o = .session { y with last := some (sn.resultAt b f) }
  kept : (s.marked b = true ∨ sn.figures b = none) → o = (s.bay b).occ

/-- Part 1 of a pass completion at one bay (R72): it writes the last pass results alone. -/
theorem State.writeResults_spec (s : State) (sn : Snapshot) (b : Fin 32) :
    let x := (s.writeResults sn sn.shares).bay b
    x = { s.bay b with occ := x.occ } ∧ ResultTaken s sn b x.occ := by
  intro x
  have results : x = _ := s.bay_mapBays _ b
  clear_value x
  simp only [Snapshot.result_shares] at results
  refine ⟨?_, fun y f hm hf hy => ?_, fun h => ?_⟩
  · rw [results]
    split
    · split <;> rfl
    · rfl
  · rw [results, Bay.session_eq_some.mp hy, hf, hm]
    rfl
  · rw [results]
    split
    · rename_i r hr
      have hm : s.marked b = true := h.resolve_right fun none => by simp [none] at hr
      rw [if_pos hm]
    · rfl

/-- The state with the results and the service order of a pass taken, before any publication (R72, R73). -/
def State.recorded (s : State) (sn : Snapshot) : State := ((s.writeResults sn sn.shares).replaceOrder sn).evalAtRisk

/-- The results and the service order of a pass are taken (R72), and nothing else comes about. -/
structure Records (s t : State) (sn : Snapshot) : Prop where
  order : t.alloc.order = sn.order.filter fun b => !s.marked b
  bays : ∀ b, t.bay b = { s.bay b with occ := (t.bay b).occ }
  results : ∀ b, ResultTaken s sn b (t.bay b).occ
  dset : NoticeSet.SameBut 0x0002 s.dset t.dset
  frame : SameBut [.order, .bays, .dset] s t

theorem State.recorded_spec (s : State) (sn : Snapshot) : Records s (s.recorded sn) sn := by
  have written := s.writeResults_spec sn
  have fw : SameBut [.bays] s (s.writeResults sn sn.shares) := s.mapBays_frame _
  unfold State.recorded
  generalize s.writeResults sn sn.shares = u at written fw
  have ordered : SameBut [.order] u (u.replaceOrder sn) := fun k hk => by
    cases k with
    | order => simp at hk
    | _ => rfl
  refine ⟨?_, fun b => (written b).1, fun b => (written b).2, ?_, ?_⟩
  · simp only [State.evalAtRisk_alloc, State.replaceOrder, fw.markAt (by simp)]
  · rw [← show u.dset = s.dset from fw .dset (by simp)]
    exact NoticeSet.setCond_frame u.dset _ _
  · exact (fw.comp ordered (l := [.order, .bays]) (by simp) (by simp)).comp (State.evalAtRisk_frame _) (by simp) (by simp)

/-! ### Decreases and increases (R84, R85) -/

/-- The decrease that a pass publishes at bay `b`, if any (R84). -/
def State.decreaseTo (s : State) (sn : Snapshot) (b : Fin 32) : Option Nat :=
  if s.marked b = false ∧ sn.frozen b = false ∧ sn.grant b < (s.bay b).published ∧ (s.bay b).reachable = true then
    some (sn.grant b)
  else none

theorem State.decreases_spec (s : State) (sn : Snapshot) :
    Walks s (allBays.foldl (State.decrease sn sn.shares) s) allBays (s.decreaseTo sn) := by
  refine walk_spec (fun t b hb _ hf => ?_) allBays allBays_nodup
  have hm : t.marked b = s.marked b := hf.markAt (by simp) b
  have step : State.decrease sn sn.shares t b =
      if s.marked b = false ∧ sn.frozen b = false ∧ sn.grant b < (s.bay b).published then t.publish b (sn.grant b)
      else t := by
    unfold State.decrease
    rw [hm, hb]
    rfl
  rw [step]
  by_cases hr : (s.bay b).reachable = true
  · by_cases hc : s.marked b = false ∧ sn.frozen b = false ∧ sn.grant b < (s.bay b).published
    · simp only [State.decreaseTo, hc, hr, and_self, if_true]
      exact State.publish_spec _ (by rw [hb]; exact hr)
    · simp only [State.decreaseTo, hr, and_true, if_neg hc]
  · simp only [State.decreaseTo, hr, and_false, if_false, Bool.false_eq_true]
    rw [State.publish_unreachable _ (by rw [hb]; simpa using hr), ite_self]

/-- A bay the pass has just decreased holds its grant, so a decrease neither makes an increase nor hides one. -/
theorem State.grant_above_decreased (s : State) (sn : Snapshot) (b : Fin 32) :
    ((s.bay b).withPublished (s.decreaseTo sn b)).published < sn.grant b ↔ (s.bay b).published < sn.grant b := by
  unfold State.decreaseTo
  split
  · rename_i h
    simp only [Bay.withPublished, lt_self_iff_false, false_iff, not_lt]
    exact h.2.2.1.le
  · rfl

theorem Bay.withPublished_occ (x : Bay) (o : Option Nat) : (x.withPublished o).occ = x.occ := by cases o <;> rfl

theorem Bay.withPublished_reachable (x : Bay) (o : Option Nat) : (x.withPublished o).reachable = x.reachable := by
  cases o <;> rfl

/-- The increase that a pass in RUN notes at bay `b`, if any (R85). -/
def State.increaseTo (s : State) (sn : Snapshot) (b : Fin 32) : Option Nat :=
  if s.mode = .run ∧ s.marked b = false ∧ sn.eligible b = true ∧ (s.bay b).reachable = true ∧
      (s.bay b).published < sn.grant b then some (sn.grant b)
  else none

/-- The increases of a pass are noted in RUN alone (R85). -/
def State.noted (s : State) (sn : Snapshot) : State := if s.mode = .run then s.noteIncreases sn sn.shares else s

theorem State.noted_frame (s : State) (sn : Snapshot) : SameBut [.increases] s (s.noted sn) := by
  unfold State.noted
  split
  · exact s.noteIncreases_frame sn sn.shares
  · exact SameBut.refl _ s

theorem State.noted_pendingInc {s : State} (h : ∀ b, s.pendingInc b = none) (sn : Snapshot) (b : Fin 32) :
    (s.noted sn).pendingInc b = s.increaseTo sn b := by
  unfold State.noted State.increaseTo
  by_cases hr : s.mode = .run
  · simp only [hr, if_true, true_and, State.pendingInc_noteIncreases, State.notedIncrease, h]
    rfl
  · simp only [hr, if_false, false_and, h]

/-! ### What a completed pass hands over (R82) -/

/-- The state that pass completion leaves for slot 0 (R82): results, service order, decreases, and in RUN the increases. -/
def State.handed (s : State) (sn : Snapshot) : State :=
  (allBays.foldl (State.decrease sn sn.shares) (s.recorded sn)).noted sn

/-- What pass completion hands over (R72, R82 to R85), and nothing else comes about. -/
structure HandsOver (s u : State) (sn : Snapshot) : Prop where
  order : u.alloc.order = sn.order.filter fun b => !s.marked b
  results : ∀ b, ResultTaken s sn b (u.bay b).occ
  bays : ∀ b, u.bay b = { (s.bay b).withPublished (s.decreaseTo sn b) with occ := (u.bay b).occ }
  boards : ∀ b, u.board b = s.boardWith b (s.decreaseTo sn b)
  increases : ∀ b, u.pendingInc b = s.increaseTo sn b
  ports : ∀ p, LinkPort.Kicked (s.port p) (u.port p)
  dset : NoticeSet.SameBut 0x0002 s.dset u.dset
  sset : NoticeSet.SameBut 0x0001 s.sset u.sset
  frame : SameBut [.order, .bays, .board, .increases, .ports, .dset, .sset] s u

theorem State.handed_spec {s : State} (sn : Snapshot) (fresh : ∀ b, s.pendingInc b = none) :
    HandsOver s (s.handed sn) sn := by
  have R := s.recorded_spec sn
  have W := (s.recorded sn).decreases_spec sn
  have N := State.noted_frame (allBays.foldl (State.decrease sn sn.shares) (s.recorded sn)) sn
  have I := State.noted_pendingInc (s := allBays.foldl (State.decrease sn sn.shares) (s.recorded sn)) (sn := sn)
  unfold State.handed
  generalize s.recorded sn = r at R W N I
  generalize allBays.foldl (State.decrease sn sn.shares) r = t at W N I
  generalize t.noted sn = u at N I
  have T : SameBut [.order, .bays, .dset, .board, .ports, .sset] s t := R.frame.comp W.frame (by simp) (by simp)
  have decreased : ∀ b, r.decreaseTo sn b = s.decreaseTo sn b := fun b => by
    unfold State.decreaseTo
    rw [R.frame.markAt (by simp), R.bays b]
  have walked : ∀ b, t.bay b = (r.bay b).withPublished (s.decreaseTo sn b) := fun b => by
    rw [W.bay, if_pos (mem_allBays b), decreased]
  have bays : ∀ b, t.bay b = { (s.bay b).withPublished (s.decreaseTo sn b) with occ := (t.bay b).occ } := fun b => by
    rw [walked b, R.bays b]
    cases s.decreaseTo sn b <;> rfl
  have occ : ∀ b, (u.bay b).occ = (r.bay b).occ := fun b => by
    rw [N.bay (by simp), walked, Bay.withPublished_occ]
  refine ⟨?_, fun b => ?_, fun b => ?_, fun b => ?_, fun b => ?_, fun p => ?_, ?_, ?_, ?_⟩
  · exact (N .order (by simp)).trans ((W.frame .order (by simp)).trans R.order)
  · rw [occ]; exact R.results b
  · rw [N.bay (by simp)]; exact bays b
  · rw [N.boardAt (by simp), W.board, if_pos (mem_allBays b), decreased]
    unfold State.boardWith
    rw [R.frame.boardAt (by simp), R.bays b]
  · rw [I fun a => by rw [T.increaseAt (by simp), fresh]]
    unfold State.increaseTo
    rw [T.markAt (by simp), show t.mode = s.mode from T .mode (by simp), bays b]
    simp only [Bay.withPublished_reachable, State.grant_above_decreased]
  · rw [N.port (by simp), ← R.frame.port (by simp)]; exact W.ports p
  · rw [show u.dset = t.dset from N .dset (by simp), show t.dset = r.dset from W.frame .dset (by simp)]; exact R.dset
  · rw [show u.sset = t.sset from N .sset (by simp), ← show r.sset = s.sset from R.frame .sset (by simp)]; exact W.sset
  · exact T.comp N (by simp) (by simp)

/-- What is handed over at one bay (R84). -/
theorem HandsOver.decrease {s u : State} {sn : Snapshot} (h : HandsOver s u sn) (b : Fin 32) :
    let x := s.bay b
    if s.marked b = false ∧ sn.frozen b = false ∧ sn.grant b < x.published ∧ x.reachable = true then
      u.bay b = { x with occ := (u.bay b).occ, published := sn.grant b, seq := x.seq + 1 } ∧
      u.board b = some (sn.grant b, x.seq + 1)
    else u.bay b = { x with occ := (u.bay b).occ } ∧ u.board b = s.board b := by
  have bay := h.bays b
  have board := h.boards b
  unfold State.decreaseTo at bay board
  dsimp only
  split
  · rename_i c
    rw [if_pos c] at bay board
    exact ⟨bay, board⟩
  · rename_i c
    rw [if_neg c] at bay board
    exact ⟨bay, board⟩

/-! ### Slot 0 and the end of the pass (R82, R86) -/

/-- A slot touches the bays, the boards, the increases, the budget, the ports and the S-set alone (R86, R87). -/
theorem SlotTaken.frame {k : Fin 4} {l : List (Fin 32)} {s t : State} (h : SlotTaken k l s t) :
    SameBut [.bays, .board, .increases, .budget, .ports, .sset] s t := by
  induction h with
  | done s => exact SameBut.refl _ s
  | skip _ _ ih => exact ih
  | take _ _ _ taken _ ih =>
    obtain ⟨_, _, _, _, _, _, f⟩ := taken
    exact f.trans ih

theorem State.takeSlot_taken (s : State) (k : Fin 4) :
    SlotTaken k s.alloc.order { s with pub := { s.pub with used := 0 } } (s.takeSlot k) := slotTaken_walk k _ _

theorem State.takeSlot_frame (s : State) (k : Fin 4) :
    SameBut [.bays, .board, .increases, .budget, .ports, .sset] s (s.takeSlot k) := by
  have begun : SameBut [.budget] s { s with pub := { s.pub with used := 0 } } := fun k hk => by
    cases k with
    | budget => simp at hk
    | _ => rfl
  exact begun.comp (s.takeSlot_taken k).frame (by simp) (by simp)

/-- The state after slot 0, which RUN alone takes (R82). -/
def State.opened (s : State) : State := if s.mode = .run then s.takeSlot 0 else s

theorem State.opened_frame (s : State) : SameBut [.bays, .board, .increases, .budget, .ports, .sset] s s.opened := by
  unfold State.opened
  split
  · exact s.takeSlot_frame 0
  · exact SameBut.refl _ s

/-- The parts of pass completion up to its end (R82): in RUN slot 0 is taken on what is handed over. -/
theorem State.finishPass_eq (s : State) (sn : Snapshot) : s.finishPass sn = (s.handed sn).opened.endPass := by
  have decreased : (allBays.foldl (State.decrease sn sn.shares) (s.recorded sn)).mode = s.mode :=
    (((s.recorded sn).decreases_spec sn).frame .mode (by simp)).trans ((s.recorded_spec sn).frame .mode (by simp))
  have mode : (s.handed sn).mode = s.mode := (State.noted_frame _ sn .mode (by simp)).trans decreased
  unfold State.opened
  rw [mode]
  unfold State.handed State.noted
  rw [decreased]
  unfold State.finishPass State.recorded
  split <;> rfl

/-- With no mode pending and no request held, pass completion ends with the pass (R82). -/
theorem execPassCompletion_finishes {s : State} {sn : Snapshot} (hr : s.resetLow = false) (hs : s.alloc.snap = some sn)
    (hp : (s.finishPass sn).pendingMode = none) (he : (s.finishPass sn).alloc.early = false) :
    exec .passCompletion s = .next (s.finishPass sn) := by
  have acts : exec .passCompletion s = .next (s.completePass sn) := by
    change execPassCompletion s = _
    simp only [execPassCompletion, hr, hs, Bool.false_eq_true, if_false]
  rw [acts]
  simp only [State.completePass, State.takePendingMode, hp, State.takeHeldRequest, he, Bool.false_eq_true, if_false]

theorem State.endPass_frame (s : State) : SameBut [.pass, .marks] s s.endPass := by
  intro k hk
  cases k with
  | pass | marks => simp at hk
  | _ => rfl

theorem State.endPass_marked (s : State) (b : Fin 32) : s.endPass.marked b = false := by
  simp [State.endPass, State.marked]

/-- Settles O47: results, order, decreases and increases are handed over, slot 0 is taken on them, and the pass ends. -/
theorem passCompletionHandsOver : Obligations.PassCompletionHandsOver := by
  intro s sn hr hs _ hp he fresh
  have H := State.handed_spec sn fresh
  have parts := s.finishPass_eq sn
  have finishes := execPassCompletion_finishes hr hs
  generalize s.handed sn = u at H parts
  have O := u.opened_frame
  have E := u.opened.endPass_frame
  have early : u.opened.endPass.alloc.early = false :=
    (E .early (by simp)).trans ((O .early (by simp)).trans ((H.frame .early (by simp)).trans he))
  have mode : u.opened.endPass.pendingMode = none :=
    (E .pendingMode (by simp)).trans ((O .pendingMode (by simp)).trans ((H.frame .pendingMode (by simp)).trans hp))
  have umode : u.mode = s.mode := H.frame .mode (by simp)
  rw [parts] at finishes
  refine ⟨u, u.opened, u.opened.endPass, finishes mode early, H.order, fun b => (H.results b).written,
    fun b => (H.results b).kept, H.decrease, H.increases, H.ports, H.dset, H.sset, H.frame, ?_, rfl,
    State.endPass_marked _, E⟩
  rw [← umode]
  unfold State.opened
  split
  · exact u.takeSlot_taken 0
  · rfl

end Sys2Proof.Machine
end

section
/-!
SUPPORT. Operations that move neither the mode nor a round, and raise no allowance: what `ModeOk` and the total allowance
(R3) are read from, and every command that leaves them be.
-/
namespace Sys2Proof.Machine

/-! ### Steady, lowering and quiet steps -/

/-- The blocks of mode and round that only a few commands move (R77, R78, R156). -/
def roundBlocks : List Block := [.reset, .mode, .pendingMode, .timer, .pass, .order, .early]

/-- Neither `ModeOk` nor what a step may do to cabinets, increases and marks reads the block. -/
def Block.offRounds : Block → Bool
  | .reset | .mode | .pendingMode | .timer | .pass | .order | .early | .settings | .slotTimes => false
  | _ => true

/-- `ModeOk` does not read the block. -/
def Block.offMode (k : Block) : Bool := k.offRounds && k != .cabinets && k != .increases && k != .marks

/-- From `s` to `t` neither mode nor round moves: a slot time, a pending increase or a mark may go, none comes (but a mark
during a pass, R56), and no silence timer starts in CONFIGURE (R120). -/
structure Steady (s t : State) : Prop where
  same : ∀ k ∈ roundBlocks, k.same s t
  round : t.settings.roundLength = s.settings.roundLength
  pmin : t.settings.pmin = s.settings.pmin
  inForce : t.settings.pminInForce = s.settings.pminInForce
  slotTimes : s.pub.slotTimes = [] → t.pub.slotTimes = []
  silence : s.mode = .configure → ∀ c, (s.cabinet c).silence = none → (t.cabinet c).silence = none
  increases : ∀ b, s.pendingInc b = none → t.pendingInc b = none
  marks : s.alloc.snap = none → ∀ b, t.marked b = s.marked b

/-- No bay's allowance (R3) is larger in `t` than in `s`. -/
def Lowers (s t : State) : Prop := ∀ b, (t.bay b).allowance ≤ (s.bay b).allowance

/-- Neither mode nor round moves, and no allowance rises. -/
structure Quiet (s t : State) : Prop where
  steady : Steady s t
  lowers : Lowers s t

namespace Steady

theorem refl (s : State) : Steady s s where
  same k _ := k.same_refl s
  round := rfl
  pmin := rfl
  inForce := rfl
  slotTimes := id
  silence _ _ := id
  increases _ := id
  marks _ _ := rfl

theorem mode {s t : State} (h : Steady s t) : t.mode = s.mode := h.same .mode (by decide)

theorem snap {s t : State} (h : Steady s t) : t.alloc.snap = s.alloc.snap := h.same .pass (by decide)

theorem trans {s t u : State} (h : Steady s t) (h' : Steady t u) : Steady s u where
  same k hk := Block.same_trans (h.same k hk) (h'.same k hk)
  round := h'.round.trans h.round
  pmin := h'.pmin.trans h.pmin
  inForce := h'.inForce.trans h.inForce
  slotTimes := h'.slotTimes ∘ h.slotTimes
  silence hm c := h'.silence (h.mode.trans hm) c ∘ h.silence hm c
  increases b := h'.increases b ∘ h.increases b
  marks hs b := (h'.marks (h.snap.trans hs) b).trans (h.marks hs b)

end Steady

theorem Lowers.refl (s : State) : Lowers s s := fun _ => le_rfl

theorem Lowers.trans {s t u : State} (h : Lowers s t) (h' : Lowers t u) : Lowers s u := fun b => (h' b).trans (h b)

theorem Lowers.foldl {α : Type} {f : State → α → State} (hf : ∀ u a, Lowers u (f u a)) :
    ∀ (l : List α) (s : State), Lowers s (l.foldl f s)
  | [], s => .refl s
  | a :: l, s => (hf s a).trans (foldl hf l (f s a))

/-- An event that comes about under a condition, and changes nothing where it does not (log 3). -/
theorem Lowers.ite {c : Prop} [Decidable c] {s t : State} (h : Lowers s t) : Lowers s (if c then t else s) := by
  split
  · exact h
  · exact .refl s

theorem Lowers.total {s t : State} (h : Lowers s t) : t.total ≤ s.total := List.sum_le_sum fun b _ => h b

theorem Block.not_mem_of_all {P : Block → Bool} {l : List Block} (hl : l.all P = true) {k : Block} (hk : P k = false) :
    k ∉ l := fun hm => by simp [List.all_eq_true.mp hl k hm] at hk

theorem Block.offRounds_of_offMode {l : List Block} (hl : l.all Block.offMode = true) : l.all Block.offRounds = true := by
  simp only [List.all_eq_true, Block.offMode, Bool.and_eq_true] at hl ⊢
  exact fun k hk => (hl k hk).1.1.1

/-- A frame that leaves what `ModeOk` reads, but for cabinets, increases and marks: of those it is said what comes of them. -/
theorem SameBut.steady_but {l : List Block} {s t : State} (f : SameBut l s t) (hl : l.all Block.offRounds = true)
    (silence : s.mode = .configure → ∀ c, (s.cabinet c).silence = none → (t.cabinet c).silence = none)
    (increases : ∀ b, s.pendingInc b = none → t.pendingInc b = none)
    (marks : s.alloc.snap = none → ∀ b, t.marked b = s.marked b) : Steady s t := by
  have off : ∀ {k : Block}, k.offRounds = false → k ∉ l := Block.not_mem_of_all hl
  have settings : t.settings = s.settings := f .settings (off rfl)
  have slotTimes : t.pub.slotTimes = s.pub.slotTimes := f .slotTimes (off rfl)
  have rounds : ∀ k ∈ roundBlocks, k.offRounds = false := by decide
  exact ⟨fun k hk => f k (off (rounds k hk)), by rw [settings], by rw [settings], by rw [settings], slotTimes.trans,
    silence, increases, marks⟩

theorem SameBut.steady {l : List Block} {s t : State} (f : SameBut l s t) (hl : l.all Block.offMode = true) :
    Steady s t := by
  have off : ∀ {k : Block}, k.offMode = false → k ∉ l := Block.not_mem_of_all hl
  refine f.steady_but (Block.offRounds_of_offMode hl) (fun _ c h => ?_) (fun b h => ?_) (fun _ b => f.markAt (off rfl) b)
  · rw [f.cabinet (off rfl), h]
  · rw [f.increaseAt (off rfl), h]

theorem SameBut.lowers {l : List Block} {s t : State} (f : SameBut l s t) (hl : l.all (· != .bays) = true) : Lowers s t :=
  fun b => (congrArg Bay.allowance (f.bay (Block.not_mem_of_all hl rfl) b)).le

theorem SameBut.quiet {l : List Block} {s t : State} (f : SameBut l s t)
    (hl : l.all (fun k => k.offMode && k != .bays) = true) : Quiet s t := by
  simp only [List.all_eq_true, Bool.and_eq_true] at hl
  exact ⟨f.steady (List.all_eq_true.mpr fun k hk => (hl k hk).1), f.lowers (List.all_eq_true.mpr fun k hk => (hl k hk).2)⟩

namespace Quiet

theorem refl (s : State) : Quiet s s := ⟨.refl s, .refl s⟩

theorem trans {s t u : State} (h : Quiet s t) (h' : Quiet t u) : Quiet s u :=
  ⟨h.steady.trans h'.steady, h.lowers.trans h'.lowers⟩

theorem foldl {α : Type} {f : State → α → State} (hf : ∀ u a, Quiet u (f u a)) :
    ∀ (l : List α) (s : State), Quiet s (l.foldl f s)
  | [], s => .refl s
  | a :: l, s => (hf s a).trans (foldl hf l (f s a))

/-- An event that comes about under a condition, and changes nothing where it does not (log 3). -/
theorem ite {c : Prop} [Decidable c] {s t : State} (h : c → Quiet s t) : Quiet s (if c then t else s) := by
  split
  · rename_i hc; exact h hc
  · exact .refl s

end Quiet

theorem State.setBay_quiet {s : State} {b : Fin 32} {x : Bay}
    (h : x.allowance ≤ (s.bay b).allowance) : Quiet s (s.setBay b x) := by
  refine ⟨(s.setBay_frame b x).steady rfl, fun a => ?_⟩
  rw [State.bay_setBay]
  split
  · rename_i e; rw [e]; exact h
  · exact le_rfl

theorem State.mark_quiet (s : State) (b : Fin 32) : Quiet s (s.mark b) := by
  have f := s.mark_frame b
  refine ⟨f.steady_but rfl (fun _ c h => ?_) (fun a h => ?_) (fun hs a => ?_), f.lowers rfl⟩
  · rw [f.cabinet (by simp), h]
  · rw [f.increaseAt (by simp), h]
  · simp [State.marked_mark, hs]

/-! ### Publications and sessions -/

theorem Bay.allowance_published_le {x : Bay} {v : Nat} {q : Seq} (h : v ≤ x.published) :
    Bay.allowance { x with published := v, seq := q } ≤ x.allowance := max_le_max_right _ h

theorem Publishes.quiet {s t : State} {b : Fin 32} {v : Nat} (p : Publishes s t b v) (hv : v ≤ (s.bay b).published) :
    Quiet s t := by
  refine ⟨p.frame.steady rfl, fun a => ?_⟩
  by_cases e : a = b
  · rw [e, p.bay]; exact Bay.allowance_published_le hv
  · rw [p.bays a e]

theorem State.publish_steady (s : State) (b : Fin 32) (v : Nat) : Steady s (s.publish b v) := by
  by_cases hr : (s.bay b).reachable = true
  · exact (State.publish_spec v hr).frame.steady rfl
  · rw [State.publish_unreachable v (by simpa using hr)]; exact .refl s

theorem State.publish_quiet {s : State} {b : Fin 32} {v : Nat} (hv : v ≤ (s.bay b).published) : Quiet s (s.publish b v) := by
  by_cases hr : (s.bay b).reachable = true
  · exact (State.publish_spec v hr).quiet hv
  · rw [State.publish_unreachable v (by simpa using hr)]; exact .refl s

theorem State.limitVehicle_quiet (s : State) (b : Fin 32) : Quiet s (s.limitVehicle b) :=
  .ite fun h => State.publish_quiet ((cutTo_le _ _).trans h.2.le)

theorem State.confirm_quiet (s : State) (b : Fin 32) (q : Byte) : Quiet s (s.confirm b q) := by
  by_cases h : (s.bay b).inSession = true ∧ q.toNat = (s.bay b).seq.toNat
  · have c := State.confirm_spec h.1 h.2
    refine ⟨c.frame.steady rfl, fun a => ?_⟩
    by_cases e : a = b
    · rw [e, c.bay]; exact (max_self _).trans_le (le_max_left _ _)
    · rw [c.bays a e]
  · rw [State.confirm_ignored h]; exact .refl s

theorem State.resync_steady (s : State) (b : Fin 32) (v : Nat) (q : Byte) : Steady s (s.resync b v q) := by
  refine (((s.adopt_spec b v q).frame.steady rfl).trans (State.limitVehicle_quiet _ b).steady).trans ?_
  unfold State.resync State.restore
  split
  · exact State.publish_steady _ b _
  · exact .refl _

theorem State.satisfy_quiet (s : State) (b : Fin 32) : Quiet s (s.satisfy b) := by
  cases h : (s.bay b).session with
  | none => simp only [State.satisfy, h]; exact .refl s
  | some x =>
    obtain ⟨bay, bays, -, -, frame⟩ := State.satisfy_spec h
    refine ⟨frame.steady rfl, fun a => ?_⟩
    by_cases e : a = b
    · rw [e, bay]; exact le_rfl
    · rw [bays a e]

theorem State.endSession_quiet (s : State) (b : Fin 32) : Quiet s (s.endSession b) := by
  cases h : (s.bay b).session with
  | none => rw [State.endSession_none h]; exact .refl s
  | some x =>
    have E := State.endSession_spec h
    refine ⟨E.frame.steady_but rfl (fun _ c hc => ?_) (fun a ha => ?_) (fun hs a => ?_), fun a => ?_⟩
    · rw [E.frame.cabinet (by simp), hc]
    · by_cases e : a = b
      · rw [e]; exact E.increase.1
      · rw [E.increase.2 a e, ha]
    · simp [E.marks, hs]
    · by_cases e : a = b
      · rw [e, E.bay]; exact Nat.zero_le _
      · rw [E.bays a e]

theorem State.startSession_quiet (s : State) (b : Fin 32) (tag : Tag) (pveh : Nat) :
    Quiet s (s.startSession b tag pveh).1 := by
  have S := s.startSession_spec b tag pveh
  refine ⟨S.frame.steady_but rfl (fun _ c hc => ?_) (fun a ha => ?_) (fun hs a => ?_), fun a => ?_⟩
  · rw [S.frame.cabinet (by simp), hc]
  · rw [S.frame.increaseAt (by simp), ha]
  · simp [S.marks, hs]
  · by_cases e : a = b
    · rw [e, S.bay]; exact Nat.zero_le _
    · rw [S.bays a e]

theorem State.onSession_quiet (s : State) (b : Fin 32) (f : Session → Session) : Quiet s (s.onSession b f) := by
  unfold State.onSession
  split
  · exact State.setBay_quiet le_rfl
  · exact .refl s

/-! ### The cabinets' messages (chapter 8) -/

theorem State.fitOutlet_quiet (s : State) (b : Fin 32) (cap : Nat) : Quiet s (s.fitOutlet b cap) := by
  simp only [State.fitOutlet]
  split
  · exact Quiet.trans (State.setBay_quiet (by rfl)) (State.mark_quiet _ b)
  · exact Quiet.trans (State.setBay_quiet (by rfl)) (State.limitVehicle_quiet _ b)

theorem State.unfitOutlet_quiet (s : State) (b : Fin 32) : Quiet s (s.unfitOutlet b) := by
  unfold State.unfitOutlet
  split
  · exact .refl s
  · exact ((s.endSession_quiet b).trans (State.setBay_quiet (by rfl))).trans (State.mark_quiet _ b)

theorem outletsBody_quiet (c : Fin 4) (m : Msg) (s : State) : Quiet s (outletsBody c m s).1 := by
  simp only [outletsBody]
  split
  · rw [done_fst]
    refine Quiet.foldl (fun u o => ?_) allOutlets s
    split
    · exact u.fitOutlet_quiet _ _
    · exact u.unfitOutlet_quiet _
  · exact .refl s

theorem plugBody_quiet (c : Fin 4) (m : Msg) (s : State) : Quiet s (plugBody c m s).1 := by
  unfold plugBody
  split
  · simp only
    split
    · exact .refl s
    · exact (s.endSession_quiet _).trans (State.startSession_quiet _ _ _ _)
  · exact .refl s

theorem unplugBody_quiet (c : Fin 4) (m : Msg) (s : State) : Quiet s (unplugBody c m s).1 := by
  simp only [unplugBody]
  split
  · exact .refl s
  · exact .refl s
  · exact s.endSession_quiet _

theorem roundEndBody_quiet (c : Fin 4) (m : Msg) (s : State) : Quiet s (roundEndBody c m s).1 := by
  have f := s.setCabinet_frame c { s.cabinet c with roundEnd := true }
  refine ⟨f.steady_but rfl (fun _ d h => ?_) (fun a h => ?_) (fun _ a => f.markAt (by simp) a), f.lowers rfl⟩
  · simp only [State.cabinet_setCabinet]
    split
    · rename_i e; rw [← e, h]
    · exact h
  · rw [f.increaseAt (by simp), h]

theorem appliedBody_quiet (c : Fin 4) (m : Msg) (s : State) : Quiet s (appliedBody c m s).1 := by
  unfold appliedBody
  split
  · exact s.confirm_quiet _ _
  · exact .refl s

theorem State.faultOutlet_quiet (s : State) (b : Fin 32) (x : Session) (code : Byte) : Quiet s (s.faultOutlet b x code) := by
  have stores : Quiet s (s.setBay b { s.bay b with occ := .session { x with phase := .fault code } }) :=
    State.setBay_quiet le_rfl
  simp only [State.faultOutlet]
  refine Quiet.trans ?_ ((State.raiseS_frame _ _).quiet rfl)
  split
  · exact stores
  · exact stores.trans (State.publish_quiet (Nat.zero_le _))

theorem outletFaultBody_quiet (c : Fin 4) (m : Msg) (s : State) : Quiet s (outletFaultBody c m s).1 := by
  unfold outletFaultBody
  split
  · simp only
    split
    · exact .refl s
    · exact .refl s
    · exact s.faultOutlet_quiet _ _ _
  · exact .refl s

/-! ### METER (R20, R91, R133) -/

theorem State.metered_quiet (s : State) (b : Fin 32) (x : Session) (f : MeterFields) :
    Quiet s ((s.setBay b { s.bay b with occ := .session (x.metered f) }).limitVehicle b) :=
  Quiet.trans (State.setBay_quiet (by rfl)) (State.limitVehicle_quiet _ b)

/-- A METER moves neither mode nor round, also where it resynchronises the bay (R91). -/
theorem State.meter_steady (s : State) (b : Fin 32) (x : Session) (f : MeterFields) : Steady s (s.meter b x f) := by
  have takes : ∀ u : State, Steady u (u.takeApplied b f) := fun u => by
    unfold State.takeApplied
    split
    · exact u.resync_steady b _ _
    · exact (u.confirm_quiet b _).steady
  exact ((s.metered_quiet b x f).steady.trans (takes _)).trans (State.satisfy_quiet _ b).steady

theorem State.limitVehicle_resync (s : State) (b : Fin 32) : ((s.limitVehicle b).bay b).resync = (s.bay b).resync := by
  by_cases hr : (s.bay b).reachable = true
  · have spec := State.limitVehicle_spec hr
    split at spec
    · rw [spec.bay]
    · rw [spec]
  · simp only [State.limitVehicle, State.publish_unreachable _ (Bool.eq_false_iff.mpr hr), ite_self]

/-- Without resync a METER confirms at most (R90), and raises no allowance. -/
theorem State.meter_quiet {s : State} {b : Fin 32} (h : (s.bay b).resync = false) (x : Session) (f : MeterFields) :
    Quiet s (s.meter b x f) := by
  refine ((s.metered_quiet b x f).trans ?_).trans (State.satisfy_quiet _ b)
  unfold State.takeApplied
  rw [State.limitVehicle_resync, State.bay_setBay, if_pos rfl, if_neg (by simp [h])]
  exact State.confirm_quiet _ b _

theorem meterBody_steady (c : Fin 4) (m : Msg) (s : State) : Steady s (meterBody c m s).1 := by
  simp only [meterBody]
  split
  · simp only
    split
    · exact s.meter_steady _ _ _
    · exact (s.endSession_quiet _).steady
  · exact .refl s

theorem meterBody_quiet {c : Fin 4} {m : Msg} {s : State} (h : (s.bay (bayOfUnit c m.unit)).resync = false) :
    Quiet s (meterBody c m s).1 := by
  simp only [meterBody]
  split
  · simp only
    split
    · exact State.meter_quiet h _ _
    · exact s.endSession_quiet _
  · exact .refl s

/-! ### Roster edits, the clock and the tag window (chapters 1, 2 and 9) -/

theorem State.relink_quiet (s : State) (k : Fin 64) : Quiet s (s.relink k) := by
  have denies : ∀ (l : List (Fin 32)) (d : Disposition) (u : State),
      Quiet u (l.foldl (fun v b => v.onSession b (·.deny d)) u) := fun l d u => .foldl (fun v b => v.onSession_quiet b _) l u
  unfold State.relink
  split
  · exact .refl s
  · rename_i e _
    refine .ite fun _ => ?_
    simp only
    split
    · exact denies _ .refused s
    · cases allBays.filter (s.relinks e.tag) with
      | nil => exact .refl s
      | cons b rest =>
        have links := ((s.onSession_quiet b (·.grantSlot k)).trans ((State.setEntry_frame _ k
          (some { e with state := .plugged b false })).quiet rfl)).trans (denies rest .duplicate _)
        simp only [State.linkBays]
        split
        · exact links
        · exact links.trans ((State.raiseD_frame _ _).quiet rfl)

theorem State.barEntry_quiet (s : State) (k : Fin 64) (b : Fin 32) : Quiet s (s.barEntry k b) := by
  refine Quiet.trans ?_ (State.onSession_quiet _ b _)
  unfold State.leavePlugged
  split
  · exact ((s.setEntry_frame k _).quiet rfl).trans ((State.evalOverdue_frame _).quiet rfl)
  · exact .refl s

theorem State.updateEntry_quiet (s : State) (k : Fin 64) (e : Entry) (f : PutFields) : Quiet s (s.updateEntry k e f) := by
  have puts := (s.setEntry_frame k (some (e.put f))).quiet rfl
  simp only [State.updateEntry]
  split
  · split
    · exact puts.trans (State.barEntry_quiet _ k _)
    · exact puts
  · exact puts

theorem rosterPutBody_quiet (m : Msg) (s : State) : Quiet s (rosterPutBody m s).1 := by
  unfold rosterPutBody
  split
  · exact .refl s
  · split
    · split
      · exact (s.updateEntry_quiet _ _ _).trans (State.relink_quiet _ _)
      · exact .refl s
    · split
      · exact .refl s
      · split
        · exact .refl s
        · exact (((s.setEntry_frame _ _).quiet rfl).trans ((State.setIndex_frame _ _ _).quiet rfl)).trans
            (State.relink_quiet _ _)

theorem rosterDropBody_quiet (m : Msg) (s : State) : Quiet s (rosterDropBody m s).1 := by
  unfold rosterDropBody
  split
  · simp only
    split
    · exact .refl s
    · split
      · exact .refl s
      · split
        · exact .refl s
        · exact ((s.setEntry_frame _ _).quiet rfl).trans ((State.setIndex_frame _ _ _).quiet rfl)
  · exact .refl s

theorem Evaluates.quiet {s t : State} {x : Clock} {n : Nat} (E : Evaluates s t x n) : Quiet s t := E.frame.quiet rfl

theorem State.minuteTick_quiet (s : State) : Quiet s s.minuteTick := (s.minuteTick_evaluates s.clock).quiet

theorem clockSetBody_quiet (m : Msg) (s : State) : Quiet s (clockSetBody m s).1 := by
  unfold clockSetBody
  split
  · rw [done_fst, State.setClock_eq]; exact (s.evaluateDepartures_evaluates _).quiet
  · exact .refl s

theorem rebuild_frame (s : State) (x : Option Rebuild) : SameBut [.rebuild] s { s with rebuild := x } := by
  intro k hk
  cases k with
  | rebuild => simp at hk
  | _ => rfl

theorem tagWindowBody_quiet (m : Msg) (s : State) : Quiet s (tagWindowBody m s).1 := by
  unfold tagWindowBody
  split
  · split
    · exact (rebuild_frame s _).quiet rfl
    · exact .refl s
  · exact .refl s

theorem State.endRebuild_quiet (s : State) (r : Rebuild) : Quiet s (s.endRebuild r) := by
  cases h : s.rebuiltIndex r.window with
  | some v =>
    rw [State.endRebuild_taken h]
    exact ((s.withIndex_frame _).quiet rfl).trans ((State.reply_frame _ .d _).quiet rfl)
  | none =>
    rw [State.endRebuild_collision h]
    exact ((s.withIndex_frame _).quiet rfl).trans ((State.reply_frame _ .d _).quiet rfl)

/-! ### Links (chapters 6 and 7) -/

theorem Detaches.quiet {s t : State} {p : Port} {rx : Receiver} (d : Detaches s t p rx) : Quiet s t := by
  refine ⟨d.frame.steady_but rfl (fun _ c hc => ?_) (fun b hb => ?_) (fun _ b => d.frame.markAt (by simp) b), fun b => ?_⟩
  · rw [d.cabinets]
    split
    · rfl
    · exact hc
  · rw [d.increases, hb, ite_self]
  · rw [d.bays]
    split
    · exact le_rfl
    · exact le_rfl

theorem Rejoins.quiet {s t : State} {p : Port} {rx : Receiver} (r : Rejoins s t p rx) : Quiet s t := by
  refine ⟨r.frame.steady_but rfl (fun hm c hc => ?_) (fun b hb => ?_) (fun _ b => r.frame.markAt (by simp) b), fun b => ?_⟩
  · rw [r.cabinets, if_neg (fun h => h.2 hm), hc]
  · rw [r.frame.increaseAt (by simp), hb]
  · rw [r.bays]
    split
    · exact le_rfl
    · exact le_rfl

theorem Accepts.quiet {s t : State} {p : Port} (a : Accepts s t p) : Quiet s t := by
  refine ⟨a.frame.steady_but rfl (fun hm c hc => ?_) (fun b hb => ?_) (fun _ b => a.frame.markAt (by simp) b),
    a.frame.lowers rfl⟩
  · rw [a.cabinets, if_neg (fun h => h.2 hm), hc]
  · rw [a.frame.increaseAt (by simp), hb]

theorem State.reject_quiet (s : State) (p : Port) : Quiet s (s.reject p) := by
  by_cases h : (s.port p).health = .detached
  · rw [State.reject_detached h]; exact (s.setPort_frame p _).quiet rfl
  · by_cases he : (s.port p).errors + 8 < 255
    · exact (State.reject_spec h he).frame.quiet rfl
    · rw [State.reject_detaches h (Nat.not_lt.mp he)]; exact (s.detach_spec p).quiet

theorem State.acceptDetached_quiet (s : State) (p : Port) (k : Byte) : Quiet s (s.acceptDetached p k) := by
  refine .ite fun _ => ?_
  split
  · exact (s.rejoin_spec p).quiet
  · exact (s.setPort_frame p _).quiet rfl

theorem State.handOn_quiet (s : State) (p : Port) (x : Item) : Quiet s (s.handOn p x) := by
  unfold State.handOn State.overrun
  simp only
  split
  · exact .refl s
  · split
    · exact (s.setPort_frame p _).quiet rfl
    · split
      · exact (s.raiseD_frame _).quiet rfl
      · exact (s.raiseS_frame _).quiet rfl

theorem State.deliver_quiet (s : State) (p : Port) (m : Msg) (good : Bool) : Quiet s (s.deliver p m good) := by
  unfold State.deliver
  split
  · split
    · exact s.acceptDetached_quiet p _
    · exact (s.accept_spec p).quiet.trans (State.handOn_quiet _ p _)
  · split
    · exact (s.reject_quiet p).trans (State.handOn_quiet _ p _)
    · exact s.reject_quiet p

theorem State.setRx_quiet (s : State) (p : Port) (x : Receiver) : Quiet s (s.setRx p x) := (s.setRx_frame p x).quiet rfl

theorem State.faultHeader_quiet (s : State) (p : Port) : Quiet s (s.faultHeader p) :=
  (s.setRx_quiet p _).trans (State.reject_quiet _ p)

theorem State.completeMessage_quiet (s : State) (p : Port) : Quiet s (s.completeMessage p) := by
  unfold State.completeMessage
  split
  · split
    · exact (s.setRx_quiet p _).trans (State.deliver_quiet _ p _ _)
    · exact .refl s
  · exact .refl s

theorem State.settle_quiet (s : State) (p : Port) : Quiet s (s.settle p) := by
  unfold State.settle
  split
  · exact s.faultHeader_quiet p
  · exact .ite fun _ => s.completeMessage_quiet p

theorem State.character_quiet (s : State) (p : Port) (b : Byte) : Quiet s (s.character p b) := by
  unfold State.character
  split
  · exact s.faultHeader_quiet p
  · exact .refl s
  · exact s.setRx_quiet p _
  · exact s.setRx_quiet p _

theorem State.beginSending_quiet (s : State) (p : Port) : Quiet s (s.beginSending p) := by
  have replies : Quiet s (s.sendReply p) := by
    simp only [State.sendReply]
    split <;> exact (s.setPort_frame p _).quiet rfl
  unfold State.beginSending
  split
  · split
    · exact ((s.setBoard_frame _ none).quiet rfl).trans ((State.setPort_frame _ _ _).quiet rfl)
    · exact replies
  · exact replies

/-! ### The shared requests, the S-port's messages and the shed release (chapters 3 and 9) -/

/-- A write of the settings that leaves L_r, Pmin and the Pmin in force. -/
theorem Quiet.of_settings {s : State} {x : Settings} (hr : x.roundLength = s.settings.roundLength)
    (hp : x.pmin = s.settings.pmin) (hf : x.pminInForce = s.settings.pminInForce) : Quiet s { s with settings := x } := by
  have f : SameBut [.settings] s { s with settings := x } := fun k hk => by
    cases k with
    | settings => simp at hk
    | _ => rfl
  exact ⟨⟨fun k hk => f k (by revert k; decide), hr, hp, hf, id, fun _ _ => id, fun _ => id, fun _ _ => rfl⟩, f.lowers rfl⟩

theorem vanPolicyBody_quiet (m : Msg) (s : State) : Quiet s (vanPolicyBody m s).1 := by
  unfold vanPolicyBody
  split
  · rw [done_fst]; exact Quiet.of_settings rfl rfl rfl
  · exact .refl s

theorem replyLimitBody_quiet (p : Port) (m : Msg) (s : State) : Quiet s (replyLimitBody p m s).1 := by
  unfold replyLimitBody
  split
  · rw [done_fst]
    unfold State.setLimit
    split
    · exact Quiet.of_settings rfl rfl rfl
    · exact Quiet.of_settings rfl rfl rfl
  · exact .refl s

theorem readBody_quiet (p : Port) (pins : PinReading) (m : Msg) (s : State) : Quiet s (readBody p pins m s).1 := by
  unfold readBody
  split
  · exact (s.recognise_frame _).quiet rfl
  · exact .refl s

theorem State.onSet_frame (s : State) (p : Port) (f : NoticeSet → Mask → NoticeSet) :
    SameBut [.dset, .sset] s (s.onSet p f) := by
  unfold State.onSet
  intro k hk
  split <;> cases k with
    | dset | sset => simp at hk
    | _ => rfl

theorem noticeEnableBody_quiet (p : Port) (m : Msg) (s : State) : Quiet s (noticeEnableBody p m s).1 := by
  unfold noticeEnableBody
  split
  · rw [done_fst]; exact (s.onSet_frame p _).quiet rfl
  · exact .refl s

theorem noticeClearBody_quiet (p : Port) (m : Msg) (s : State) : Quiet s (noticeClearBody p m s).1 := by
  unfold noticeClearBody
  split
  · rw [done_fst]; exact (s.onSet_frame p _).quiet rfl
  · exact .refl s

theorem rampLimitBody_quiet (m : Msg) (s : State) : Quiet s (rampLimitBody m s).1 := by
  unfold rampLimitBody
  split
  · rw [done_fst]; exact (env_frame s _).quiet rfl
  · exact .refl s

theorem releaseCabinetBody_quiet (m : Msg) (s : State) : Quiet s (releaseCabinetBody m s).1 := by
  simp only [releaseCabinetBody]
  split
  · exact .refl s
  · split
    · exact .refl s
    · rw [done_fst]; exact Quiet.foldl State.endSession_quiet (baysOf _) s

theorem slotAssignBody_quiet (m : Msg) (s : State) : Quiet s (slotAssignBody m s).1 := by
  unfold slotAssignBody
  split
  · simp only
    split
    · split
      · rw [done_fst]; exact State.setBay_quiet le_rfl
      · exact .refl s
    · exact .refl s
  · exact .refl s

theorem pinWriteBody_quiet (m : Msg) (s : State) : Quiet s (pinWriteBody m s).1 := by
  unfold pinWriteBody
  split
  · rw [done_fst]; exact (pins_frame s _).quiet rfl
  · exact .refl s

theorem State.releaseShed_quiet (s : State) : Quiet s s.releaseShed := (s.handShed_spec false).frame.quiet rfl

theorem State.tick_quiet (s : State) : Quiet s s.tick := .ite fun _ => (clock_frame s _).quiet rfl

/-! ### The quiet commands -/

theorem State.handle_quiet {s : State} {k : Kind} {p : Port} {body : Msg → State → State × Option Msg}
    (hb : ∀ m u, Quiet u (body m u).1) : Quiet s (s.handle k p body) :=
  State.handle_keeps (P := Quiet s) (fun f h => h.trans (f.quiet rfl)) (fun m _ h => h.trans (hb m _)) (.refl s)

/-- The commands that may move the mode or a round, or raise an allowance. -/
def movesRounds : Instr → Bool
  | .meter _ | .siteLimit _ | .loadReport _ | .modeRequest _ | .restart _ | .allocationSetup _ | .pinSetup _ _
  | .shedAssertion | .roundTimerExpiry | .passCompletion | .slot _ | .resetAsserted | .resetRelease _ _ _ => true
  | _ => false

theorem exec_quiet {c : Instr} {s t : State} (hc : movesRounds c = false) (h : exec c s = .next t) : Quiet s t := by
  have inj : ∀ {u : State}, Host.Outcome.next (φ := Fault) (ρ := Refusal) u = .next t → Quiet s u → Quiet s t := by
    rintro u ⟨⟩ hu; exact hu
  cases c <;> simp only [movesRounds, Bool.true_eq_false] at hc
  case messageComplete p => exact inj h (.ite fun _ => s.completeMessage_quiet p)
  case headerFault p => exact inj h (.ite fun _ => s.faultHeader_quiet p)
  case framingError p cause =>
    refine inj h (.ite fun _ => ?_)
    simp only
    split
    · exact (s.settle_quiet p).trans (State.faultHeader_quiet _ p)
    · exact s.settle_quiet p
  case idleGapElapsed p =>
    refine inj h (.ite fun _ => ?_)
    simp only
    split
    · exact (s.settle_quiet p).trans (State.setRx_quiet _ p _)
    · exact s.settle_quiet p
  case characterReceived p b => exact inj h (.ite fun _ => (s.settle_quiet p).trans (State.character_quiet _ p b))
  case silenceTimerExpiry c => exact inj h (.ite fun _ => (s.detach_spec (.c c)).quiet)
  case endOfGap p => exact inj h (.ite fun _ => s.beginSending_quiet p)
  case messageSent p =>
    exact inj h (.ite fun _ => ((s.setPort_frame p _).quiet rfl).trans ((State.kick_frame _ p).quiet rfl))
  case payloadCheck p =>
    refine inj h ?_
    split
    · exact ((s.take_frame p).quiet rfl).trans ((State.reply_frame _ p _).quiet rfl)
    · exact .refl s
  case unknownKind p =>
    refine inj h ?_
    split
    · split
      · exact ((s.take_frame p).quiet rfl).trans ((State.reply_frame _ p _).quiet rfl)
      · exact .refl s
    · exact .refl s
  case keepalive p => exact inj h (State.handle_quiet fun _ u => .refl u)
  case outlets p => exact inj h (State.handle_quiet (onCabinet_keeps .refl outletsBody_quiet))
  case plug p => exact inj h (State.handle_quiet (onCabinet_keeps .refl plugBody_quiet))
  case unplug p => exact inj h (State.handle_quiet (onCabinet_keeps .refl unplugBody_quiet))
  case roundEnd p => exact inj h (State.handle_quiet (onCabinet_keeps .refl roundEndBody_quiet))
  case applied p => exact inj h (State.handle_quiet (onCabinet_keeps .refl appliedBody_quiet))
  case outletFault p => exact inj h (State.handle_quiet (onCabinet_keeps .refl outletFaultBody_quiet))
  case rosterPut p => exact inj h (State.handle_quiet rosterPutBody_quiet)
  case rosterDrop p => exact inj h (State.handle_quiet rosterDropBody_quiet)
  case clockSet p => exact inj h (State.handle_quiet clockSetBody_quiet)
  case vanPolicy p => exact inj h (State.handle_quiet vanPolicyBody_quiet)
  case tagWindow p => exact inj h (State.handle_quiet tagWindowBody_quiet)
  case indexRebuildEnd =>
    refine inj h ?_
    split
    · exact .refl s
    · split
      · exact s.endRebuild_quiet _
      · exact .refl s
  case read p pins => exact inj h (State.handle_quiet (readBody_quiet p pins))
  case replyLimit p => exact inj h (State.handle_quiet (replyLimitBody_quiet p))
  case noticeEnable p => exact inj h (State.handle_quiet (noticeEnableBody_quiet p))
  case noticeClear p => exact inj h (State.handle_quiet (noticeClearBody_quiet p))
  case rampLimit p => exact inj h (State.handle_quiet rampLimitBody_quiet)
  case releaseCabinet p => exact inj h (State.handle_quiet releaseCabinetBody_quiet)
  case slotAssign p => exact inj h (State.handle_quiet slotAssignBody_quiet)
  case pinWrite p => exact inj h (State.handle_quiet pinWriteBody_quiet)
  case secondComplete =>
    refine inj h (.ite fun _ => ?_)
    simp only
    split
    · exact (clock_frame s _).quiet rfl
    · exact ((clock_frame s _).quiet rfl).trans (State.minuteTick_quiet _)
  case minuteEvent =>
    refine inj h (.ite fun _ => ?_)
    split
    · exact ((clock_frame s _).quiet rfl).trans (State.minuteTick_quiet _)
    · exact .ite fun _ => ((clock_frame s _).quiet rfl).trans (State.minuteTick_quiet _)
  case minutePulse => exact inj h (.ite fun _ => ((pins_frame s _).quiet rfl).trans (State.minuteTick_quiet _))
  case shedRelease => exact inj h (.ite fun _ => ((pins_frame s _).quiet rfl).trans (State.releaseShed_quiet _))

end Sys2Proof.Machine
end

section
/-!
PROOFS. The total allowance stays under the envelope (R87, R91, R97): O51.
-/
namespace Sys2Proof.Machine

/-! ### Rounds, modes and the shed raise no allowance (R79, R92, R95) -/

theorem RoundStarts.lowers {s t : State} (r : RoundStarts s t) : Lowers s t := fun b =>
  (congrArg Bay.allowance (r.bays b)).le

theorem EarlyRound.lowers {s t : State} (r : EarlyRound s t) : Lowers s t := by
  unfold EarlyRound at r
  split at r
  · rw [r]; exact .refl s
  · split at r
    · rw [r]; exact fun _ => le_rfl
    · exact r.lowers

theorem RequestsIf.lowers {c : Prop} {s t : State} (r : RequestsIf c s t) : Lowers s t := by
  by_cases h : c
  · exact (r.round h).lowers
  · rw [r.quiet h]; exact .refl s

/-- A walk of publications none of which lies above the bay's published setpoint. -/
theorem Walks.lowers {s t : State} {l : List (Fin 32)} {want : Fin 32 → Option Nat} (w : Walks s t l want)
    (h : ∀ b v, want b = some v → v ≤ (s.bay b).published) : Lowers s t := by
  intro b
  rw [w.bay]
  split
  · cases e : want b with
    | none => exact le_rfl
    | some v => exact Bay.allowance_published_le (h b v e)
  · exact le_rfl

theorem EntersConfigure.lowers {s t : State} (c : EntersConfigure s t) : Lowers s t := by
  intro b
  have published : (t.bay b).published ≤ (s.bay b).published := by
    by_cases h : ((s.bay b).reachable = true ∨ (s.port (.c (cabinetOf b))).health = .detached) ∧ 0 < (s.bay b).published
    · rw [(c.zero b h.1 h.2).1]; exact Nat.zero_le _
    · exact (c.kept b h).1.le
  rw [c.bays b]
  exact max_le_max_right _ published

theorem ModeTakesEffect.lowers {s t : State} {m : Mode} (c : ModeTakesEffect s t m) : Lowers s t := by
  unfold ModeTakesEffect at c
  split at c
  · rw [c]; exact fun _ => le_rfl
  · split at c
    · exact c.lowers
    · split at c
      · obtain ⟨u, silence, starts⟩ := c
        exact (silence.frame.lowers rfl).trans starts.lowers
      · obtain ⟨u, silence, swaps⟩ := c
        rw [swaps]
        refine (silence.frame.lowers rfl).trans ?_
        split
        · exact fun _ => le_rfl
        · exact fun _ => le_rfl

theorem State.halveAll_lowers (s : State) : Lowers s s.halveAll := by
  refine s.halveAll_spec.lowers fun b v h => ?_
  split at h
  · cases h; exact halved_le _ _
  · cases h

theorem State.assertShed_lowers (s : State) : Lowers s s.assertShed := by
  have shed : Lowers s { s with env := { s.env with shed := true } } := (env_frame s _).lowers rfl
  refine Lowers.trans ?_ (State.requestEarly_spec _).lowers
  refine Lowers.trans ?_ (((State.evalShed_frame _).trans (State.evalExceeded_frame _)).lowers rfl)
  split
  · exact shed
  · exact shed.trans (State.halveAll_lowers _)

theorem State.setupPins_lowers (s : State) (fn dir pins : Byte) : Lowers s (s.setupPins fn dir pins) := by
  have set := (s.withPins_frame fn dir pins).lowers rfl
  rw [State.setupPins_eq]
  split
  · exact set
  · split
    · split
      · exact set
      · exact set.trans (State.assertShed_lowers _)
    · split
      · exact set.trans (State.releaseShed_quiet _).lowers
      · exact set

/-! ### The requests -/

theorem siteLimitBody_lowers (m : Msg) (s : State) : Lowers s (siteLimitBody m s).1 := by
  unfold siteLimitBody
  split
  · rw [done_fst]
    exact (((env_frame s _).lowers rfl).trans ((State.evalExceeded_frame _).lowers rfl)).trans
      (State.requestIfExceeded_spec _).lowers
  · exact .refl s

theorem loadReportBody_lowers (m : Msg) (s : State) : Lowers s (loadReportBody m s).1 := by
  unfold loadReportBody
  split
  · rw [done_fst]
    have evaluates := fun u : State => u.evalExceeded_frame.trans (State.evalLoadStale_frame _)
    exact (((env_frame s _).lowers rfl).trans ((evaluates _).lowers rfl)).trans (State.requestIfExceeded_spec _).lowers
  · exact .refl s

theorem modeRequestBody_lowers (m : Msg) (s : State) : Lowers s (modeRequestBody m s).1 := by
  unfold modeRequestBody
  split
  · split
    · exact .refl s
    · rw [done_fst]
      unfold State.requestMode
      split
      · exact fun _ => le_rfl
      · exact (s.changeMode_spec _).lowers
  · exact .refl s

theorem restartBody_lowers (m : Msg) (s : State) : Lowers s (restartBody m s).1 := by
  have blocks : Lowers s s.restartBlocks := fun b => by rw [State.restartBlocks_bay]; exact Nat.zero_le _
  exact blocks.trans (s.restartBlocks.handConditions_frame.lowers rfl)

theorem allocationSetupBody_lowers (m : Msg) (s : State) : Lowers s (allocationSetupBody m s).1 :=
  fun b => (congrArg Bay.allowance ((allocationSetupBody_books m s).bay b)).le

theorem pinSetupBody_lowers (pins : Byte) (m : Msg) (s : State) : Lowers s (pinSetupBody pins m s).1 := by
  unfold pinSetupBody
  split
  · split
    · exact s.setupPins_lowers _ _ _
    · split
      · exact (pins_frame s _).lowers rfl
      · exact .refl s
  · exact .refl s

theorem State.handle_lowers {s : State} {k : Kind} {p : Port} {body : Msg → State → State × Option Msg}
    (hb : ∀ m u, Lowers u (body m u).1) : Lowers s (s.handle k p body) :=
  State.handle_keeps (P := Lowers s) (fun f h => h.trans (f.lowers rfl)) (fun m _ h => h.trans (hb m _)) (.refl s)

/-- What a handler offers on sound links, it can take: a DETACHED port has nothing buffered (R118). -/
theorem State.takes_of_offered {s : State} (hL : s.LinksOk) {p : Port} {k : Kind} {m : Msg}
    (h : s.offered p = some (.message m)) (hk : m.kind = k.code) : s.Takes p k m := by
  unfold State.offered at h
  split at h
  · cases h
  · rename_i high
    split at h
    · rename_i ready
      refine ⟨⟨by simpa using high, ready, h, fun hd => ?_⟩, hk⟩
      rw [((hL.port p).silent hd).1] at h
      cases h
    · cases h

/-- A METER of a bay without resync raises no allowance (R90, R91). -/
theorem State.meter_lowers {s : State} (hL : s.LinksOk) {p : Port}
    (h : ∀ n m, p = .c n → s.Takes (.c n) .meter m → (s.bay (bayOfUnit n m.unit)).resync = false) :
    Lowers s (s.handle .meter p (onCabinet p meterBody)) := by
  by_cases taken : ∃ m, s.offered p = some (.message m) ∧ m.kind = Kind.code .meter
  · obtain ⟨m, ho, hk⟩ := taken
    refine State.handle_keeps (P := Lowers s) (fun f hu => hu.trans (f.lowers rfl)) (fun m' ho' hu => hu.trans ?_) (.refl s)
    cases ho.symm.trans ho'
    cases p with
    | c n => exact (meterBody_quiet (by rw [State.take_bay]; exact h n m rfl (State.takes_of_offered hL ho hk))).lowers
    | d | s => exact .refl _
  · rw [State.handle_waits _ fun m ho hk => taken ⟨m, ho, hk⟩]
    exact .refl s

/-! ### Slots and passes (R82, R84, R87) -/

/-- The commands but SLOT and PASS_COMPLETION raise no allowance, but for a METER of a bay with resync set. -/
theorem exec_lowers {c : Instr} {s t : State} (hL : s.LinksOk)
    (hm : ∀ n m, c = .meter (.c n) → s.Takes (.c n) .meter m → (s.bay (bayOfUnit n m.unit)).resync = false)
    (hs : ∀ k, c ≠ .slot k) (hp : c ≠ .passCompletion) (h : exec c s = .next t) : Lowers s t := by
  by_cases hc : movesRounds c = false
  · exact (exec_quiet hc h).lowers
  have inj : ∀ {u : State}, Host.Outcome.next (φ := Fault) (ρ := Refusal) u = .next t → Lowers s u → Lowers s t := by
    rintro u ⟨⟩ hu; exact hu
  cases c <;> simp only [movesRounds, not_true_eq_false] at hc
  case meter p => exact inj h (State.meter_lowers hL fun n m e => hm n m (congrArg Instr.meter e))
  case siteLimit p => exact inj h (State.handle_lowers siteLimitBody_lowers)
  case loadReport p => exact inj h (State.handle_lowers loadReportBody_lowers)
  case modeRequest p => exact inj h (State.handle_lowers modeRequestBody_lowers)
  case restart p => exact inj h (State.handle_lowers restartBody_lowers)
  case allocationSetup p => exact inj h (State.handle_lowers allocationSetupBody_lowers)
  case pinSetup p pins => exact inj h (State.handle_lowers (pinSetupBody_lowers pins))
  case shedAssertion => exact inj h (.ite (((pins_frame s _).lowers rfl).trans (State.assertShed_lowers _)))
  case roundTimerExpiry => exact inj h (.ite s.roundStart_spec.lowers)
  case passCompletion => exact absurd rfl hp
  case slot k => exact absurd rfl (hs k)
  case resetAsserted =>
    refine inj h ?_
    split
    · exact .refl s
    · exact fun _ => le_rfl
  case resetRelease cabs baud pins =>
    refine inj h (.ite fun b => ?_)
    change ((State.powerOn cabs baud pins).bay b).allowance ≤ _
    rw [powerOn_bay]
    exact Nat.zero_le _

/-- One increase leaves the total within the envelope, or where it was (R87). -/
theorem IncreaseTaken.total {s t : State} {b : Fin 32} {target : Nat} (h : IncreaseTaken s t b target) :
    t.total ≤ max s.total s.env.inForce := by
  obtain ⟨_, others, published, discarded, _⟩ := h
  by_contra above
  have kept := discarded fun ⟨fit, positive, enough⟩ =>
    above ((published fit positive enough).2.2.2.trans (le_max_right _ _))
  have bays : ∀ a, t.bay a = s.bay a := fun a => by
    by_cases e : a = b
    · rw [e]; exact kept.1
    · exact (others a e).1
  exact above ((Lowers.total fun a => by rw [bays]).trans (le_max_left _ _))

theorem IncreaseTaken.env {s t : State} {b : Fin 32} {target : Nat} (h : IncreaseTaken s t b target) : t.env = s.env := by
  obtain ⟨_, _, _, _, _, _, frame⟩ := h
  exact frame .env (by simp)

/-- The increases of a slot leave the total within the envelope, or where it was (R87). -/
theorem SlotTaken.total {k : Fin 4} {l : List (Fin 32)} {s t : State} (h : SlotTaken k l s t) :
    t.total ≤ max s.total s.env.inForce := by
  induction h with
  | done s => exact le_max_left _ _
  | skip _ _ ih => exact ih
  | take target _ _ taken _ ih =>
    rw [taken.env] at ih
    exact ih.trans (max_le taken.total (le_max_right _ _))

theorem State.takeSlot_total (s : State) (k : Fin 4) : (s.takeSlot k).total ≤ max s.total s.env.inForce :=
  (s.takeSlot_taken k).total

theorem Records.lowers {s t : State} {sn : Snapshot} (r : Records s t sn) : Lowers s t := fun b =>
  (congrArg Bay.allowance (r.bays b)).le

/-- What a pass hands over before slot 0 raises no allowance: it decreases, and notes increases (R84, R85). -/
theorem State.handed_lowers (s : State) (sn : Snapshot) : Lowers s (s.handed sn) := by
  have decreases : Lowers (s.recorded sn) (allBays.foldl (State.decrease sn sn.shares) (s.recorded sn)) := by
    refine (State.decreases_spec _ sn).lowers fun b v h => ?_
    unfold State.decreaseTo at h
    split at h
    · rename_i below; cases h; exact below.2.2.1.le
    · cases h
  exact ((s.recorded_spec sn).lowers.trans decreases).trans ((State.noted_frame _ sn).lowers rfl)

/-- What a pass hands over before slot 0, said without a premise on the increases that stood. -/
theorem State.handed_frame (s : State) (sn : Snapshot) :
    SameBut [.order, .bays, .board, .increases, .ports, .dset, .sset] s (s.handed sn) :=
  ((s.recorded_spec sn).frame.comp (State.decreases_spec _ sn).frame (l := [.order, .bays, .dset, .board, .ports, .sset])
    (by simp) (by simp)).comp (State.noted_frame _ sn) (by simp) (by simp)

theorem State.finishPass_total (s : State) (sn : Snapshot) : (s.finishPass sn).total ≤ max s.total s.env.inForce := by
  have env : (s.handed sn).env = s.env := s.handed_frame sn .env (by simp)
  have opened : (s.handed sn).opened.total ≤ max (s.handed sn).total (s.handed sn).env.inForce := by
    unfold State.opened
    split
    · exact State.takeSlot_total _ 0
    · exact le_max_left _ _
  rw [s.finishPass_eq, (State.endPass_frame _).total (by simp)]
  rw [env] at opened
  exact opened.trans (max_le_max_right _ (s.handed_lowers sn).total)

theorem State.takePendingMode_lowers (s : State) : Lowers s s.takePendingMode := by
  unfold State.takePendingMode
  split
  · exact (s.changeMode_spec _).lowers
  · exact .refl s

theorem State.takeHeldRequest_lowers (s : State) : Lowers s s.takeHeldRequest := by
  have cleared : Lowers s { s with alloc := { s.alloc with early := false } } := fun _ => le_rfl
  unfold State.takeHeldRequest
  split
  · simp only
    split
    · exact cleared
    · exact cleared.trans (State.roundStart_spec _).lowers
  · exact .refl s

theorem State.completePass_total (s : State) (sn : Snapshot) : (s.completePass sn).total ≤ max s.total s.env.inForce :=
  (((s.finishPass sn).takePendingMode_lowers.trans (State.takeHeldRequest_lowers _)).total).trans (s.finishPass_total sn)

/-- Settles O51: only an increase raises an allowance, at a slot or at slot 0 of a pass, and it fits the room (R87); every
other command lowers each bay's allowance or leaves it, but for a resync METER. -/
theorem totalStaysUnderTheEnvelope : Obligations.TotalStaysUnderTheEnvelope := by
  intro c s t hL hm h
  have stays : ∀ {u : State}, Host.Outcome.next (φ := Fault) (ρ := Refusal) u = .next t →
      u.total ≤ max s.total s.env.inForce → t.total ≤ max s.total s.env.inForce := by
    rintro u ⟨⟩ hu; exact hu
  by_cases hp : c = .passCompletion
  · subst hp
    refine stays h ?_
    split
    · exact le_max_left _ _
    · split
      · exact s.completePass_total _
      · exact le_max_left _ _
  · by_cases hs : ∃ k, c = .slot k
    · obtain ⟨k, rfl⟩ := hs
      refine stays h ?_
      split
      · exact State.takeSlot_total (s.passSlot k) k
      · exact le_max_left _ _
    · exact (exec_lowers hL hm (fun k e => hs ⟨k, e⟩) hp h).total.trans (le_max_left _ _)

end Sys2Proof.Machine
end

section
/-!
PROOFS. What the mode allows through every step (R77, R78, R85, R96, R149, R156, R158): O59.
-/
namespace Sys2Proof.Machine

/-! ### What the mode allows, and what a held request adds -/

/-- What the mode allows (`State.ModeOk`), less the pending mode and the held request: pass completion takes those only after
the pass has ended (R82, parts 5 and 6). -/
structure State.RoundsOk (s : State) : Prop where
  configure : s.mode = .configure →
    s.alloc.timer = none ∧ s.alloc.snap = none ∧ s.pub.slotTimes = [] ∧ s.alloc.order = [] ∧
      ∀ c, (s.cabinet c).silence = none
  increase : s.mode ≠ .run → ∀ b, s.pendingInc b = none
  marks : s.alloc.snap = none → ∀ b, s.marked b = false
  running : s.resetLow = false → s.mode ≠ .configure → s.alloc.timer = some s.settings.roundLength
  governs : s.mode ≠ .configure → s.settings.pminInForce = s.settings.pmin

theorem State.ModeOk.rounds {s : State} (h : s.ModeOk) : s.RoundsOk :=
  ⟨h.configure, h.increase, fun hs => (h.idle hs).2.2, h.running, h.governs⟩

theorem State.RoundsOk.modeOk {s : State} (h : s.RoundsOk) (hp : s.alloc.snap = none → s.pendingMode = none)
    (he : s.alloc.snap = none → s.alloc.early = false) : s.ModeOk :=
  ⟨h.configure, h.increase, fun hs => ⟨hp hs, he hs, h.marks hs⟩, h.running, h.governs⟩

theorem Steady.roundsOk {s t : State} (f : Steady s t) (h : s.RoundsOk) : t.RoundsOk where
  configure hm := by
    have hs : s.mode = .configure := f.mode.symm.trans hm
    obtain ⟨timer, snap, slotTimes, order, silence⟩ := h.configure hs
    exact ⟨(f.same .timer (by decide)).trans timer, f.snap.trans snap, f.slotTimes slotTimes,
      (f.same .order (by decide)).trans order, fun c => f.silence hs c (silence c)⟩
  increase hm b := f.increases b (h.increase (f.mode ▸ hm) b)
  marks hs b := (f.marks (f.snap.symm.trans hs) b).trans (h.marks (f.snap.symm.trans hs) b)
  running hr hm := by
    rw [f.round]
    exact (f.same .timer (by decide)).trans (h.running ((f.same .reset (by decide)).symm.trans hr) (f.mode ▸ hm))
  governs hm := by rw [f.pmin, f.inForce]; exact h.governs (f.mode ▸ hm)

theorem Steady.modeOk {s t : State} (f : Steady s t) (h : s.ModeOk) : t.ModeOk :=
  (f.roundsOk h.rounds).modeOk (fun hs => (f.same .pendingMode (by decide)).trans (h.idle (f.snap.symm.trans hs)).1)
    fun hs => (f.same .early (by decide)).trans (h.idle (f.snap.symm.trans hs)).2.1

/-- While a pass is in flight a mode may be pending and a request held (R78, R146). -/
theorem State.ModeOk.hold {s : State} (h : s.ModeOk) (flying : s.alloc.snap.isSome = true) (m : Option Mode) (e : Bool) :
    State.ModeOk { s with pendingMode := m, alloc := { s.alloc with early := e } } :=
  have none : ∀ {P : Prop}, s.alloc.snap = none → P := fun hs => by rw [hs] at flying; cases flying
  ⟨h.configure, h.increase, none, h.running, h.governs⟩

/-! ### Round starts (R78, R79) -/

/-- A round start in RUN or HOLD leaves what the mode allows, whatever was pending or held before it. -/
theorem RoundStarts.modeOk {s t : State} (r : RoundStarts s t) (hm : s.mode ≠ .configure)
    (hg : s.settings.pminInForce = s.settings.pmin) : t.ModeOk := by
  have settings : t.settings = s.settings := r.frame .settings (by simp)
  have mode : t.mode ≠ .configure := by rwa [show t.mode = s.mode from r.frame .mode (by simp)]
  obtain ⟨sn, snap, -⟩ := r.snapshot
  refine ⟨fun h => absurd h mode, fun _ => r.increases, fun h => ?_, fun _ _ => ?_, fun _ => ?_⟩
  · rw [snap] at h; cases h
  · rw [r.timer, settings]
  · rw [settings, hg]

theorem EarlyRound.modeOk {s t : State} (r : EarlyRound s t) (h : s.ModeOk) : t.ModeOk := by
  unfold EarlyRound at r
  split at r
  · rw [r]; exact h
  · rename_i hm
    split at r
    · rename_i flying
      rw [r]
      exact h.hold flying _ true
    · exact r.modeOk hm (h.governs hm)

theorem RequestsIf.modeOk {c : Prop} {s t : State} (r : RequestsIf c s t) (h : s.ModeOk) : t.ModeOk := by
  by_cases hc : c
  · exact (r.round hc).modeOk h
  · rw [r.quiet hc]; exact h

theorem State.assertShed_modeOk {s : State} (h : s.ModeOk) : s.assertShed.ModeOk := by
  have shed : Steady s { s with env := { s.env with shed := true } } := (env_frame s _).steady rfl
  refine (State.requestEarly_spec _).modeOk (Steady.modeOk ?_ h)
  refine Steady.trans ?_ (((State.evalShed_frame _).trans (State.evalExceeded_frame _)).steady rfl)
  split
  · exact shed
  · exact shed.trans ((State.halveAll_spec _).frame.steady rfl)

theorem State.setupPins_modeOk {s : State} (h : s.ModeOk) (fn dir pins : Byte) : (s.setupPins fn dir pins).ModeOk := by
  have set : (s.withPins fn dir pins).ModeOk := ((s.withPins_frame fn dir pins).steady rfl).modeOk h
  rw [State.setupPins_eq]
  split
  · exact set
  · split
    · split
      · exact set
      · exact State.assertShed_modeOk set
    · split
      · exact (State.releaseShed_quiet _).steady.modeOk set
      · exact set

/-! ### Changes of mode (R157 to R160) -/

theorem EntersConfigure.roundsOk {s t : State} (c : EntersConfigure s t) (hs : s.alloc.snap = none)
    (hn : ∀ b, s.marked b = false) : t.RoundsOk := by
  obtain ⟨timer, _, order, slotTimes, increases⟩ := c.round
  have mode : ¬ t.mode ≠ .configure := fun hm => hm c.mode.1
  refine ⟨fun _ => ⟨timer, ?_, slotTimes, order, fun d => by rw [c.cabinets]⟩, fun _ => increases, fun _ b => ?_,
    fun _ hm => absurd hm mode, fun hm => absurd hm mode⟩
  · exact (c.frame .pass (by simp)).trans hs
  · rw [c.frame.markAt (by simp), hn]

/-- A change between RUN and HOLD keeps the round; HOLD drops the increases (R160). -/
theorem State.RoundsOk.swapMode {s u : State} (h : s.RoundsOk) (silence : SilenceStarts s u) (hs : s.mode ≠ .configure)
    {m : Mode} (hm : m ≠ .configure) :
    State.RoundsOk { (if m = .hold then u.dropIncreases else u) with mode := m, pendingMode := none } := by
  obtain ⟨v, hv⟩ : ∃ v, v = if m = .hold then u.dropIncreases else u := ⟨_, rfl⟩
  have dropped : SameBut [.increases] u v := by
    rw [hv]
    split
    · exact u.dropIncreases_frame
    · exact SameBut.refl _ u
  have f : SameBut [.cabinets, .increases] s v := silence.frame.comp dropped (by simp) (by simp)
  rw [← hv]
  refine ⟨fun e => absurd e hm, fun hr b => ?_, fun hn b => ?_, fun reset _ => ?_, fun _ => ?_⟩
  · have hold : m = .hold := by
      cases m with
      | configure => exact absurd rfl hm
      | run => exact absurd rfl hr
      | hold => rfl
    rw [if_pos hold] at hv
    rw [hv]
    exact u.pendingInc_dropIncreases b
  · exact (f.markAt (by simp) b).trans (h.marks ((f .pass (by simp)).symm.trans hn) b)
  · have timer : v.alloc.timer = s.alloc.timer := f .timer (by simp)
    have settings : v.settings = s.settings := f .settings (by simp)
    change v.alloc.timer = some v.settings.roundLength
    rw [timer, settings]
    exact h.running ((f .reset (by simp)).symm.trans reset) hs
  · change v.settings.pminInForce = v.settings.pmin
    rw [show v.settings = s.settings from f .settings (by simp)]
    exact h.governs hs

theorem ModeTakesEffect.roundsOk {s t : State} {m : Mode} (c : ModeTakesEffect s t m) (h : s.RoundsOk)
    (hs : s.alloc.snap = none) : t.RoundsOk := by
  unfold ModeTakesEffect at c
  split at c
  · rw [c]; exact ⟨h.configure, h.increase, h.marks, h.running, h.governs⟩
  · split at c
    · exact c.roundsOk hs (h.marks hs)
    · rename_i hm
      split at c
      · obtain ⟨u, -, starts⟩ := c
        exact (starts.modeOk hm rfl).rounds
      · rename_i rounds
        obtain ⟨u, silence, swaps⟩ := c
        rw [swaps]
        exact h.swapMode silence rounds hm

/-- A change of mode leaves no mode pending, and raises no request (R157). -/
theorem ModeTakesEffect.pendingMode_early {s t : State} {m : Mode} (c : ModeTakesEffect s t m) :
    t.pendingMode = none ∧ (s.alloc.early = false → t.alloc.early = false) := by
  unfold ModeTakesEffect at c
  split at c
  · rw [c]; exact ⟨rfl, id⟩
  · split at c
    · exact ⟨c.mode.2, fun _ => c.round.2.1⟩
    · split at c
      · obtain ⟨u, silence, starts⟩ := c
        exact ⟨starts.frame .pendingMode (by simp),
          fun he => (starts.frame .early (by simp)).trans ((silence.frame .early (by simp)).trans he)⟩
      · obtain ⟨u, silence, swaps⟩ := c
        have early : u.alloc.early = s.alloc.early := silence.frame .early (by simp)
        rw [swaps]
        refine ⟨rfl, fun he => ?_⟩
        split
        · exact early.trans he
        · exact early.trans he

/-! ### Slots and passes (R82, R83, R86) -/

theorem SlotTaken.increases {k : Fin 4} {l : List (Fin 32)} {s t : State} (h : SlotTaken k l s t) (b : Fin 32)
    (hb : s.pendingInc b = none) : t.pendingInc b = none := by
  induction h with
  | done s => exact hb
  | skip _ _ ih => exact ih hb
  | @take a _ s u _ _ _ _ taken _ ih =>
    obtain ⟨gone, others, _⟩ := taken
    by_cases e : b = a
    · rw [e] at ih ⊢; exact ih gone
    · exact ih ((others b e).2.2.trans hb)

theorem State.takeSlot_steady (s : State) (k : Fin 4) : Steady s (s.takeSlot k) := by
  have f := s.takeSlot_frame k
  refine f.steady_but rfl (fun _ c hc => ?_) (s.takeSlot_taken k).increases (fun _ b => f.markAt (by simp) b)
  rw [f.cabinet (by simp), hc]

theorem State.passSlot_steady (s : State) (k : Fin 4) : Steady s (s.passSlot k) := by
  have f : SameBut [.slotTimes] s (s.passSlot k) := fun k hk => by
    cases k with
    | slotTimes => simp at hk
    | _ => rfl
  refine ⟨fun k hk => f k ?_, rfl, rfl, rfl, fun h => ?_, fun _ _ => id, fun _ => id, fun _ _ => rfl⟩
  · revert k; decide
  · simp only [State.passSlot, h, List.filter_nil]

/-- What a completed pass leaves before it takes what is held (R82, parts 1 to 4). -/
theorem State.finishPass_roundsOk {s : State} {sn : Snapshot} (h : s.ModeOk) (hs : s.alloc.snap = some sn) :
    (s.finishPass sn).RoundsOk := by
  have hm : s.mode ≠ .configure := fun e => by
    obtain ⟨_, none, _⟩ := h.configure e
    rw [none] at hs; cases hs
  have f := s.handed_frame sn
  have increases := fun fresh => (State.handed_spec (s := s) sn fresh).increases
  rw [s.finishPass_eq]
  generalize s.handed sn = u at f increases
  have F : SameBut [.order, .bays, .board, .increases, .ports, .dset, .sset, .budget, .pass, .marks] s u.opened.endPass :=
    (f.comp (l := [.order, .bays, .board, .increases, .ports, .dset, .sset, .budget]) u.opened_frame (by simp)
      (by simp)).comp (State.endPass_frame _) (by simp) (by simp)
  have mode : u.opened.endPass.mode = s.mode := F .mode (by simp)
  have settings : u.opened.endPass.settings = s.settings := F .settings (by simp)
  refine ⟨fun e => absurd (mode.symm.trans e) hm, fun hr b => ?_, fun _ => State.endPass_marked _, fun reset _ => ?_,
    fun _ => ?_⟩
  · rw [mode] at hr
    have idle : u.opened = u := if_neg (by rwa [show u.mode = s.mode from f .mode (by simp)])
    rw [idle, u.endPass_frame.increaseAt (by simp), increases (h.increase hr)]
    exact if_neg fun noted => hr noted.1
  · rw [settings]
    exact (F .timer (by simp)).trans (h.running ((F .reset (by simp)).symm.trans reset) hm)
  · rw [settings, h.governs hm]

theorem State.takePendingMode_roundsOk {s : State} (h : s.RoundsOk) (hs : s.alloc.snap = none) :
    s.takePendingMode.RoundsOk ∧ s.takePendingMode.pendingMode = none := by
  unfold State.takePendingMode
  split
  · exact ⟨(s.changeMode_spec _).roundsOk h hs, (s.changeMode_spec _).pendingMode_early.1⟩
  · rename_i none
    exact ⟨h, none⟩

theorem State.takeHeldRequest_modeOk {s : State} (h : s.RoundsOk) (hp : s.pendingMode = none) :
    s.takeHeldRequest.ModeOk := by
  have cleared : State.RoundsOk { s with alloc := { s.alloc with early := false } } :=
    ⟨h.configure, h.increase, h.marks, h.running, h.governs⟩
  unfold State.takeHeldRequest
  split
  · simp only
    split
    · exact cleared.modeOk (fun _ => hp) fun _ => rfl
    · rename_i hm
      exact (State.roundStart_spec _).modeOk hm (h.governs hm)
  · rename_i quiet
    exact h.modeOk (fun _ => hp) fun _ => Bool.eq_false_iff.mpr quiet

theorem State.completePass_modeOk {s : State} {sn : Snapshot} (h : s.ModeOk) (hs : s.alloc.snap = some sn) :
    (s.completePass sn).ModeOk := by
  obtain ⟨rounds, taken⟩ := State.takePendingMode_roundsOk (State.finishPass_roundsOk h hs) rfl
  exact State.takeHeldRequest_modeOk rounds taken

/-! ### The requests -/

theorem siteLimitBody_modeOk {m : Msg} {s : State} (h : s.ModeOk) : (siteLimitBody m s).1.ModeOk := by
  unfold siteLimitBody
  split
  · rw [done_fst]
    refine (State.requestIfExceeded_spec _).modeOk (Steady.modeOk ?_ h)
    exact ((env_frame s _).steady rfl).trans ((State.evalExceeded_frame _).steady rfl)
  · exact h

theorem loadReportBody_modeOk {m : Msg} {s : State} (h : s.ModeOk) : (loadReportBody m s).1.ModeOk := by
  unfold loadReportBody
  split
  · rw [done_fst]
    refine (State.requestIfExceeded_spec _).modeOk (Steady.modeOk ?_ h)
    exact ((env_frame s _).steady rfl).trans (((State.evalExceeded_frame _).trans (State.evalLoadStale_frame _)).steady rfl)
  · exact h

theorem modeRequestBody_modeOk {m : Msg} {s : State} (h : s.ModeOk) : (modeRequestBody m s).1.ModeOk := by
  unfold modeRequestBody
  split
  · split
    · exact h
    · rename_i x _
      rw [done_fst]
      unfold State.requestMode
      split
      · rename_i flying
        exact h.hold flying (some x) _
      · rename_i idle
        have hs : s.alloc.snap = none := by simpa using idle
        have c := s.changeMode_spec x
        exact (c.roundsOk h.rounds hs).modeOk (fun _ => c.pendingMode_early.1) fun _ => c.pendingMode_early.2 (h.idle hs).2.1
  · exact h

theorem allocationSetupBody_modeOk {m : Msg} {s : State} (h : s.ModeOk) : (allocationSetupBody m s).1.ModeOk := by
  unfold allocationSetupBody
  split
  · split
    · rename_i hm
      exact ⟨h.configure, h.increase, h.idle, fun _ hn => absurd hm hn, fun hn => absurd hm hn⟩
    · exact h
  · exact h

theorem pinSetupBody_modeOk {pins : Byte} {m : Msg} {s : State} (h : s.ModeOk) : (pinSetupBody pins m s).1.ModeOk := by
  unfold pinSetupBody
  split
  · split
    · exact State.setupPins_modeOk h _ _ _
    · split
      · exact ((pins_frame s _).steady rfl).modeOk h
      · exact h
  · exact h

/-! ### RESTART and RESET (R156, R161, R163) -/

/-- In CONFIGURE with nothing running, in flight, pending or held. -/
theorem State.ModeOk.of_rest {s : State} (hm : s.mode = .configure)
    (ha : s.alloc = { timer := none, snap := none, marks := Vector.replicate 32 false, order := [], early := false })
    (hp : s.pendingMode = none) (ht : s.pub.slotTimes = []) (hi : s.pub.pending = Vector.replicate 32 none)
    (hc : s.cabinets = Vector.replicate 4 Cabinet.powerOn) : s.ModeOk where
  configure _ := by simp [ha, ht, State.cabinet, hc, Cabinet.powerOn]
  increase _ b := by simp [State.pendingInc, hi]
  idle _ := by simp [hp, ha, State.marked]
  running _ hn := absurd hm hn
  governs hn := absurd hm hn

theorem restartBody_modeOk (m : Msg) (s : State) : (restartBody m s).1.ModeOk :=
  (s.restartBlocks.handConditions_frame.steady rfl).modeOk (.of_rest rfl rfl rfl rfl rfl rfl)

/-- While RESET is low no round timer need run (R163). -/
theorem State.assertReset_modeOk {s : State} (h : s.ModeOk) : s.assertReset.ModeOk where
  configure hm := by
    obtain ⟨_, _, _, order, _⟩ := h.configure hm
    exact ⟨rfl, rfl, rfl, order, fun c => by simp [State.assertReset, State.cabinet]⟩
  increase _ b := by simp [State.assertReset, State.pendingInc]
  idle _ := ⟨rfl, rfl, fun b => by simp [State.assertReset, State.marked]⟩
  running hr := by cases hr
  governs := h.governs

/-! ### Every command -/

theorem State.ModeOk.ite {c : Prop} [Decidable c] {s t : State} (h : s.ModeOk) (ht : c → t.ModeOk) :
    State.ModeOk (if c then t else s) := by
  split
  · rename_i hc; exact ht hc
  · exact h

theorem State.ModeOk.handle {s : State} (h : s.ModeOk) {k : Kind} {p : Port} {body : Msg → State → State × Option Msg}
    (hb : ∀ m u, u.ModeOk → (body m u).1.ModeOk) : (s.handle k p body).ModeOk :=
  State.handle_keeps (P := State.ModeOk) (fun f hu => (f.steady rfl).modeOk hu) (fun m _ hu => hb m _ hu) h

theorem exec_modeOk {c : Instr} {s t : State} (h : s.ModeOk) (e : exec c s = .next t) : t.ModeOk := by
  by_cases hc : movesRounds c = false
  · exact (exec_quiet hc e).steady.modeOk h
  have inj : ∀ {u : State}, Host.Outcome.next (φ := Fault) (ρ := Refusal) u = .next t → u.ModeOk → t.ModeOk := by
    rintro u ⟨⟩ hu; exact hu
  cases c <;> simp only [movesRounds, not_true_eq_false] at hc
  case meter p =>
    refine inj e (h.handle fun m u hu => Steady.modeOk ?_ hu)
    exact onCabinet_keeps (R := Steady) Steady.refl meterBody_steady m u
  case siteLimit p => exact inj e (h.handle fun _ _ => siteLimitBody_modeOk)
  case loadReport p => exact inj e (h.handle fun _ _ => loadReportBody_modeOk)
  case modeRequest p => exact inj e (h.handle fun _ _ => modeRequestBody_modeOk)
  case restart p => exact inj e (h.handle fun m u _ => restartBody_modeOk m u)
  case allocationSetup p => exact inj e (h.handle fun _ _ => allocationSetupBody_modeOk)
  case pinSetup p pins => exact inj e (h.handle fun _ _ => pinSetupBody_modeOk)
  case shedAssertion =>
    exact inj e (h.ite fun _ => State.assertShed_modeOk (((pins_frame s _).steady rfl).modeOk h))
  case roundTimerExpiry =>
    refine inj e (h.ite fun hc => ?_)
    have hm : s.mode ≠ .configure := fun hm => by
      obtain ⟨timer, _⟩ := h.configure hm
      simp [timer] at hc
    exact s.roundStart_spec.modeOk hm (h.governs hm)
  case passCompletion =>
    refine inj e ?_
    split
    · exact h
    · split
      · rename_i flying
        exact State.completePass_modeOk h flying
      · exact h
  case slot k => exact inj e (h.ite fun _ => ((s.passSlot_steady k).trans (State.takeSlot_steady _ k)).modeOk h)
  case resetAsserted =>
    refine inj e ?_
    split
    · exact h
    · exact State.assertReset_modeOk h
  case resetRelease cabs baud pins => exact inj e (h.ite fun _ => .of_rest rfl rfl rfl rfl rfl rfl)

/-- Settles O59: most commands move neither mode nor round; a round starts only in RUN or HOLD, an entry to CONFIGURE stops
everything, and what is held during a pass is taken when it ends. -/
theorem keepsTheMode : Obligations.KeepsTheMode := by
  intro s t h e
  unfold step at e
  split at e
  · have taken : ∀ rest, State.ModeOk { s with pending := rest } := fun _ =>
      ⟨h.configure, h.increase, h.idle, h.running, h.governs⟩
    exact exec_modeOk (taken _) e
  · cases e; exact s.tick_quiet.steady.modeOk h

end Sys2Proof.Machine
end

section
/-!
PROOFS. Handled reports, the round timer, and what pass completion takes after the pass (R77, R79, R82, R90, R136 to R138):
O19, O46, O48.
-/
namespace Sys2Proof.Machine

/-! ### KEEPALIVE, ROUND END and APPLIED (R136, R137, R138) -/

theorem exec_applied {s : State} {c : Fin 4} {m : Msg} {o : Fin 8} {v1 v0 q : Byte} (h : s.Takes (.c c) .applied m)
    (hu : m.unit = BitVec.ofNat 8 o.val) (hl : m.payload = [v1, v0, q]) :
    exec (.applied (.c c)) s = .next ((s.take (.c c)).confirm (bayAt c o) q) := by
  have passes : Kind.Passes .applied (.c c) m := Kind.passes_outlet rfl (by rw [hl]; rfl) hu (by decide)
  refine congrArg Host.Outcome.next (State.handle_silent h passes ?_)
  simp only [onCabinet, appliedBody, hl, hu, bayOfUnit_ofNat]

/-- Settles O19: the reports take their item without an answer; APPLIED confirms only on the published sequence. -/
theorem keepaliveRoundEndAndApplied : Obligations.KeepaliveRoundEndAndApplied := by
  refine ⟨⟨fun s p m h hu hl => ?_, fun s c m h hu hl => ?_⟩, fun s c m o v1 v0 q h hu hl => ?_⟩
  · have passes : Kind.Passes .keepalive p m := ⟨rfl, by rw [hl]; rfl, by rw [hu]; rfl⟩
    exact congrArg Host.Outcome.next (State.handle_silent h passes rfl)
  · have passes : Kind.Passes .roundEnd (.c c) m := ⟨rfl, by rw [hl]; rfl, by rw [hu]; rfl⟩
    exact congrArg Host.Outcome.next (State.handle_silent h passes rfl)
  · rw [exec_applied h hu hl]
    have bay : (s.take (.c c)).bay (bayAt c o) = s.bay (bayAt c o) := s.take_bay _ _
    refine ⟨fun other => ?_, fun inSession sequence => ?_⟩
    · rw [State.confirm_ignored (by rwa [bay])]
    · have confirms := State.confirm_spec (s := s.take (.c c)) (by rw [bay]; exact inSession) (by rw [bay]; exact sequence)
      exact ⟨_, rfl, bay ▸ confirms.bay, confirms.bays, confirms.sset, confirms.frame⟩

/-! ### The round timer (R77) -/

/-- Settles O46: with its two conditions met the command is the round start. -/
theorem timerExpiryStartsARound : Obligations.TimerExpiryStartsARound := by
  intro s n hr ht hs
  refine ⟨s.roundStart, congrArg Host.Outcome.next (if_pos ?_), s.roundStart_spec⟩
  rw [hr, ht, hs]
  rfl

/-! ### Parts 1 to 4 of pass completion read neither the pending mode nor the held request (R82) -/

/-- `s` with the given pending mode and held request. -/
def State.holding (s : State) (m : Option Mode) (e : Bool) : State :=
  { s with pendingMode := m, alloc := { s.alloc with early := e } }

section
variable (s : State) (m : Option Mode) (e : Bool)

theorem State.holding_self : s.holding s.pendingMode s.alloc.early = s := rfl

theorem State.holding_holding (m' : Option Mode) (e' : Bool) : (s.holding m e).holding m' e' = s.holding m' e' := rfl

/-! What is read elsewhere is read the same. -/

@[simp] theorem State.holding_mode : (s.holding m e).mode = s.mode := rfl
@[simp] theorem State.holding_settings : (s.holding m e).settings = s.settings := rfl
@[simp] theorem State.holding_bay (b : Fin 32) : (s.holding m e).bay b = s.bay b := rfl
@[simp] theorem State.holding_port (p : Port) : (s.holding m e).port p = s.port p := rfl
@[simp] theorem State.holding_pendingInc (b : Fin 32) : (s.holding m e).pendingInc b = s.pendingInc b := rfl
@[simp] theorem State.holding_marked (b : Fin 32) : (s.holding m e).marked b = s.marked b := rfl
@[simp] theorem State.holding_hasToSend (p : Port) : (s.holding m e).hasToSend p = s.hasToSend p := rfl
@[simp] theorem State.holding_increaseOf (b : Fin 32) (n : Nat) : (s.holding m e).increaseOf b n = s.increaseOf b n := rfl
@[simp] theorem State.holding_mayIncrease (b : Fin 32) : (s.holding m e).mayIncrease b = s.mayIncrease b := rfl

/-! What is done elsewhere is done the same. -/

theorem State.kick_holding (p : Port) : (s.holding m e).kick p = (s.kick p).holding m e := by
  simp only [State.kick, State.holding_port, State.holding_hasToSend]
  rw [apply_ite (State.holding · m e)]
  rfl

theorem State.evalExceeded_holding : (s.holding m e).evalExceeded = s.evalExceeded.holding m e := by
  have stands : (s.holding m e).exceededStands = s.exceededStands := State.exceededStands_congr (fun _ => rfl) rfl
  unfold State.evalExceeded
  rw [stands]
  generalize s.exceededStands = stands
  rfl

theorem State.publish_holding (b : Fin 32) (v : Nat) : (s.holding m e).publish b v = (s.publish b v).holding m e := by
  have issues : (s.holding m e).issue b v = (s.issue b v).holding m e := by
    unfold State.issue
    exact State.kick_holding ((s.setBay b { s.bay b with published := v, seq := (s.bay b).seq + 1 }).setBoard b _) m e _
  simp only [State.publish, State.holding_bay, issues, State.evalExceeded_holding]
  split <;> rfl

theorem State.decrease_holding (sn : Snapshot) (shares : List (Fin 32 × Nat)) (b : Fin 32) :
    State.decrease sn shares (s.holding m e) b = (State.decrease sn shares s b).holding m e := by
  simp only [State.decrease, State.holding_marked, State.holding_bay, State.publish_holding]
  split <;> rfl

theorem State.increase_holding (b : Fin 32) (target : Nat) :
    (s.holding m e).increase b target = (s.increase b target).holding m e := by
  simp only [State.increase, State.holding_increaseOf, State.holding_mayIncrease, State.holding_bay,
    State.holding_settings, State.publish_holding]
  split <;> rfl

theorem State.evaluateAt_holding (k : Fin 4) (b : Fin 32) :
    State.evaluateAt k (s.holding m e) b = (State.evaluateAt k s b).holding m e := by
  simp only [State.evaluateAt, State.holding_pendingInc, State.holding_bay, State.increase_holding]
  cases s.pendingInc b with
  | none => rfl
  | some target => dsimp only; split <;> rfl

theorem State.takeSlot_holding (k : Fin 4) : (s.holding m e).takeSlot k = (s.takeSlot k).holding m e :=
  List.foldl_hom (f := (State.holding · m e)) (g₁ := State.evaluateAt k) (g₂ := State.evaluateAt k)
    (l := s.alloc.order) (init := { s with pub := { s.pub with used := 0 } }) fun t b => t.evaluateAt_holding m e k b

theorem State.writeResults_holding (sn : Snapshot) (shares : List (Fin 32 × Nat)) :
    (s.holding m e).writeResults sn shares = (s.writeResults sn shares).holding m e := by
  simp only [State.writeResults, State.holding_marked]
  rfl

theorem State.noteIncreases_holding (sn : Snapshot) (shares : List (Fin 32 × Nat)) :
    (s.holding m e).noteIncreases sn shares = (s.noteIncreases sn shares).holding m e := by
  have noted : (s.holding m e).notedIncrease sn shares = s.notedIncrease sn shares := rfl
  unfold State.noteIncreases
  rw [noted]
  rfl

theorem State.finishPass_holding (sn : Snapshot) : (s.holding m e).finishPass sn = (s.finishPass sn).holding m e := by
  have orders : ∀ t : State, ((t.holding m e).replaceOrder sn).evalAtRisk = (t.replaceOrder sn).evalAtRisk.holding m e :=
    fun _ => rfl
  have decreases : ∀ t : State, allBays.foldl (State.decrease sn sn.shares) (t.holding m e) =
      (allBays.foldl (State.decrease sn sn.shares) t).holding m e := fun t =>
    List.foldl_hom (f := (State.holding · m e)) fun u b => u.decrease_holding m e sn sn.shares b
  simp only [State.finishPass, State.writeResults_holding, orders, decreases, State.noteIncreases_holding,
    State.takeSlot_holding, State.holding_mode]
  split <;> rfl

end

/-! ### Parts 5 and 6 of pass completion (R82) -/

theorem execPassCompletion_completes {s : State} {sn : Snapshot} (hr : s.resetLow = false) (hs : s.alloc.snap = some sn) :
    exec .passCompletion s = .next ((s.finishPass sn).takePendingMode.takeHeldRequest) := by
  change execPassCompletion s = _
  simp only [execPassCompletion, hr, hs, Bool.false_eq_true, if_false]
  rfl

theorem State.takeHeldRequest_spec (s : State) :
    if s.alloc.early = true ∧ s.mode ≠ .configure then
      RoundStarts { s with alloc := { s.alloc with early := false } } s.takeHeldRequest
    else s.takeHeldRequest = { s with alloc := { s.alloc with early := false } } := by
  unfold State.takeHeldRequest
  by_cases he : s.alloc.early = true
  · by_cases hm : s.mode = .configure
    · simp only [he, hm, ne_eq, not_true_eq_false, and_false, if_false, if_true]
    · simp only [he, hm, ne_eq, not_false_eq_true, and_self, if_false, if_true]
      exact State.roundStart_spec _
  · rw [if_neg he, if_neg fun h => he h.1, ← Bool.eq_false_iff.mpr he]

/-- Settles O48: the pass is handed over the same whatever is pending or held; then the pending mode takes effect, and the
held request is taken. -/
theorem passCompletionTakesWhatIsHeld : Obligations.PassCompletionTakesWhatIsHeld := by
  intro s sn hr hs
  have finished : ((s.finishPass sn).holding none false).holding s.pendingMode s.alloc.early = s.finishPass sn := by
    rw [State.holding_holding, ← s.finishPass_holding, s.holding_self]
  have nothing := execPassCompletion_completes (s := s.holding none false) hr hs
  rw [s.finishPass_holding] at nothing
  refine ⟨(s.finishPass sn).holding none false, (s.finishPass sn).takePendingMode, _, nothing,
    execPassCompletion_completes hr hs, ?_, State.takeHeldRequest_spec _⟩
  generalize s.finishPass sn = u at finished
  have pending : u.pendingMode = s.pendingMode := (congrArg State.pendingMode finished).symm
  unfold State.takePendingMode
  rw [pending]
  cases hp : s.pendingMode with
  | none => rw [hp] at finished; exact finished.symm
  | some m =>
    rw [hp] at finished
    have taken : ModeTakesEffect (State.holding (State.holding u none false) (some m) s.alloc.early) (u.changeMode m) m := by
      rw [finished]; exact u.changeMode_spec m
    exact taken

end Sys2Proof.Machine
end

section
/-!
SUPPORT. Link ports and the bays they reach: what leaves them in order (R104, R109, R116, R118, R119, R121), and the operations
on bays, sessions and rounds that touch no more of a port than its transmitter (R110).
-/
namespace Sys2Proof.Machine

/-! ### Ports whose transmitter alone may have moved (R110) -/

/-- `r'` is `r`, but that the IDLE transmitter of an attached port may have entered GAP (R110, R118). -/
def LinkPort.Roused (r r' : LinkPort) : Prop :=
  r' = r ∨ (r.tx = .idle ∧ r.health ≠ .detached ∧ r' = { r with tx := .gap })

namespace LinkPort.Roused

theorem refl (r : LinkPort) : Roused r r := .inl rfl

theorem trans {r r' r'' : LinkPort} (h : Roused r r') (h' : Roused r' r'') : Roused r r'' := by
  rcases h with rfl | ⟨idle, attached, rfl⟩
  · exact h'
  · rcases h' with rfl | ⟨gap, _⟩
    · exact .inr ⟨idle, attached, rfl⟩
    · cases gap

theorem health {r r' : LinkPort} (h : Roused r r') : r'.health = r.health := by
  rcases h with rfl | ⟨_, _, rfl⟩ <;> rfl

theorem queue {r r' : LinkPort} (h : Roused r r') : r'.queue = r.queue := by
  rcases h with rfl | ⟨_, _, rfl⟩ <;> rfl

theorem ok {r r' : LinkPort} (h : Roused r r') (hr : r.Ok) : r'.Ok := by
  rcases h with rfl | ⟨_, attached, rfl⟩
  · exact hr
  · exact ⟨hr.errors, hr.health, hr.rejoin, hr.buffers, hr.queue, fun hd => absurd hd attached, hr.attached⟩

end LinkPort.Roused

/-! ### What ties bays to ports -/

/-- From `s` to `t` no port moves but a transmitter, no bay's reachability changes, and what R118 and R119 empty stays empty:
board place and pending increase of an unreachable bay, silence timer and round-end-seen flag of a DETACHED port's cabinet. -/
structure KeepsTies (s t : State) : Prop where
  port : ∀ p, LinkPort.Roused (s.port p) (t.port p)
  rebuild : t.rebuild = s.rebuild
  reachable : ∀ b, (t.bay b).reachable = (s.bay b).reachable
  board : ∀ b, (s.bay b).reachable = false → s.board b = none → t.board b = none
  increase : ∀ b, (s.bay b).reachable = false → s.pendingInc b = none → t.pendingInc b = none
  silence : ∀ c, (s.port (.c c)).health = .detached → (s.cabinet c).silence = none → (t.cabinet c).silence = none
  roundEnd : ∀ c, (s.port (.c c)).health = .detached → (s.cabinet c).roundEnd = false → (t.cabinet c).roundEnd = false

/-- The link ports and the reachability of bays are in order. -/
structure State.Tied (s : State) : Prop where
  links : s.LinksOk
  reach : s.ReachOk

namespace KeepsTies

theorem refl (s : State) : KeepsTies s s :=
  ⟨fun _ => .refl _, rfl, fun _ => rfl, fun _ _ => id, fun _ _ => id, fun _ _ => id, fun _ _ => id⟩

theorem trans {s t u : State} (h : KeepsTies s t) (h' : KeepsTies t u) : KeepsTies s u where
  port p := (h.port p).trans (h'.port p)
  rebuild := h'.rebuild.trans h.rebuild
  reachable b := (h'.reachable b).trans (h.reachable b)
  board b hb := h'.board b ((h.reachable b).trans hb) ∘ h.board b hb
  increase b hb := h'.increase b ((h.reachable b).trans hb) ∘ h.increase b hb
  silence c hc := h'.silence c ((h.port _).health.trans hc) ∘ h.silence c hc
  roundEnd c hc := h'.roundEnd c ((h.port _).health.trans hc) ∘ h.roundEnd c hc

theorem foldl {α : Type} {f : State → α → State} (hf : ∀ u a, KeepsTies u (f u a)) :
    ∀ (l : List α) (s : State), KeepsTies s (l.foldl f s)
  | [], s => .refl s
  | a :: l, s => (hf s a).trans (foldl hf l (f s a))

/-- An event that comes about under a condition, and changes nothing where it does not (log 3). -/
theorem ite {c : Prop} [Decidable c] {s t : State} (h : c → KeepsTies s t) : KeepsTies s (if c then t else s) := by
  split
  · rename_i hc; exact h hc
  · exact .refl s

theorem tied {s t : State} (k : KeepsTies s t) (h : s.Tied) : t.Tied where
  links := ⟨fun p => (k.port p).ok (h.links.port p), fun hr => by
    rw [(k.port .d).queue]; exact h.links.room (k.rebuild ▸ hr)⟩
  reach :=
    ⟨fun b => by rw [k.reachable, (k.port _).health]; exact h.reach.reachable b,
      fun b hb => by
        have hb' : (s.bay b).reachable = false := (k.reachable b).symm.trans hb
        obtain ⟨board, increase⟩ := h.reach.board b hb'
        exact ⟨k.board b hb' board, k.increase b hb' increase⟩,
      fun c hc => by
        have hc' : (s.port (.c c)).health = .detached := (k.port _).health.symm.trans hc
        obtain ⟨silence, roundEnd⟩ := h.reach.cabinet c hc'
        exact ⟨k.silence c hc' silence, k.roundEnd c hc' roundEnd⟩⟩

end KeepsTies

/-- Neither the ports nor what ties bays to them is read from the block. -/
def Block.offTies : Block → Bool
  | .ports | .rebuild | .bays | .board | .increases | .cabinets => false
  | _ => true

/-- A frame that leaves ports, cabinets and rebuild: of bays, board and increases it is said what comes of them. -/
theorem SameBut.ties_but {l : List Block} {s t : State} (f : SameBut l s t) (reachable : ∀ b, (t.bay b).reachable = (s.bay b).reachable)
    (board : ∀ b, (s.bay b).reachable = false → s.board b = none → t.board b = none)
    (increase : ∀ b, (s.bay b).reachable = false → s.pendingInc b = none → t.pendingInc b = none)
    (hp : .ports ∉ l := by decide) (hc : .cabinets ∉ l := by decide) (hr : .rebuild ∉ l := by decide) : KeepsTies s t where
  port p := .inl (f.port hp p)
  rebuild := f .rebuild hr
  reachable := reachable
  board := board
  increase := increase
  silence c _ h := by rw [f.cabinet hc, h]
  roundEnd c _ h := by rw [f.cabinet hc, h]

theorem SameBut.ties {l : List Block} {s t : State} (f : SameBut l s t) (hl : l.all Block.offTies = true) :
    KeepsTies s t := by
  have off : ∀ {k : Block}, k.offTies = false → k ∉ l := Block.not_mem_of_all hl
  exact f.ties_but (fun b => by rw [f.bay (off rfl)]) (fun b _ h => by rw [f.boardAt (off rfl), h])
    (fun b _ h => by rw [f.increaseAt (off rfl), h]) (off rfl) (off rfl) (off rfl)

/-! ### Transmission and publication (R88, R90, R91, R93, R110) -/

theorem State.kick_ties (s : State) (p : Port) : KeepsTies s (s.kick p) := by
  refine .ite fun ⟨idle, attached, _⟩ => ?_
  have f := s.setPort_frame p { s.port p with tx := .gap }
  refine ⟨fun q => ?_, rfl, fun _ => rfl, fun _ _ => id, fun _ _ => id, fun _ _ => id, fun _ _ => id⟩
  rw [State.port_setPort]
  split
  · rename_i e; rw [e]; exact .inr ⟨idle, attached, rfl⟩
  · exact .refl _

theorem State.setBay_ties {s : State} {b : Fin 32} {x : Bay} (h : x.reachable = (s.bay b).reachable) :
    KeepsTies s (s.setBay b x) := by
  refine (s.setBay_frame b x).ties_but (fun a => ?_) (fun _ _ => id) fun _ _ => id
  rw [State.bay_setBay]
  split
  · rename_i e; rw [h, e]
  · rfl

/-- An unreachable bay's board place takes nothing. -/
theorem State.setBoard_ties {s : State} {b : Fin 32} {x : Option (Nat × Seq)} (h : (s.bay b).reachable = true ∨ x = none) :
    KeepsTies s (s.setBoard b x) := by
  refine (s.setBoard_frame b x).ties_but (fun _ => rfl) (fun a ha e => ?_) fun _ _ => id
  rw [State.board_setBoard]
  split
  · rename_i ab
    rw [ab] at ha
    exact h.resolve_left fun hr => by rw [ha] at hr; cases hr
  · exact e

theorem State.setPendingInc_ties (s : State) (b : Fin 32) : KeepsTies s (s.setPendingInc b none) := by
  refine (s.setPendingInc_frame b none).ties_but (fun _ => rfl) (fun _ _ => id) fun a _ e => ?_
  rw [State.pendingInc_setPendingInc, e, ite_self]

theorem State.issue_ties {s : State} {b : Fin 32} (h : (s.bay b).reachable = true) (v : Nat) : KeepsTies s (s.issue b v) := by
  simp only [State.issue]
  refine KeepsTies.trans (KeepsTies.trans (State.setBay_ties (by rfl)) (State.setBoard_ties (.inl ?_))) (State.kick_ties _ _)
  rw [State.bay_setBay, if_pos rfl]
  exact h

theorem State.publish_ties (s : State) (b : Fin 32) (v : Nat) : KeepsTies s (s.publish b v) :=
  .ite fun h => (State.issue_ties h v).trans ((State.evalExceeded_frame _).ties rfl)

theorem State.limitVehicle_ties (s : State) (b : Fin 32) : KeepsTies s (s.limitVehicle b) :=
  .ite fun _ => s.publish_ties b _

theorem State.confirm_ties (s : State) (b : Fin 32) (q : Byte) : KeepsTies s (s.confirm b q) :=
  .ite fun _ => KeepsTies.trans (State.setBay_ties (by rfl))
    (((State.evalUnconfirmed_frame _).trans (State.evalExceeded_frame _)).ties rfl)

theorem State.resync_ties (s : State) (b : Fin 32) (v : Nat) (q : Byte) : KeepsTies s (s.resync b v q) := by
  have adopts : KeepsTies s (s.adopt b v q) :=
    KeepsTies.trans (KeepsTies.trans (State.setBay_ties (by rfl)) (State.setBoard_ties (.inr rfl)))
      (((State.evalUnconfirmed_frame _).trans (State.evalExceeded_frame _)).ties rfl)
  exact (adopts.trans (State.limitVehicle_ties _ b)).trans (.ite fun _ => State.publish_ties _ b _)

/-! ### Sessions (R18, R21, R23) -/

theorem State.satisfy_ties (s : State) (b : Fin 32) : KeepsTies s (s.satisfy b) := by
  unfold State.satisfy
  split
  · exact .refl s
  · split
    · exact .refl s
    · exact .ite fun _ => KeepsTies.trans (State.setBay_ties (by rfl)) ((State.raiseD_frame _ _).ties rfl)

theorem State.endSession_ties (s : State) (b : Fin 32) : KeepsTies s (s.endSession b) := by
  cases h : (s.bay b).session with
  | none => rw [State.endSession_none h]; exact .refl s
  | some x =>
    have E := State.endSession_spec h
    refine E.frame.ties_but (fun a => ?_) (fun a _ ha => ?_) fun a _ ha => ?_
    · by_cases e : a = b
      · rw [e, E.bay]
      · rw [E.bays a e]
    · by_cases e : a = b
      · rw [e]; exact E.board.1
      · rw [E.board.2 a e, ha]
    · by_cases e : a = b
      · rw [e]; exact E.increase.1
      · rw [E.increase.2 a e, ha]

theorem State.startSession_ties (s : State) (b : Fin 32) (tag : Tag) (pveh : Nat) :
    KeepsTies s (s.startSession b tag pveh).1 := by
  have S := s.startSession_spec b tag pveh
  refine S.frame.ties_but (fun a => ?_) (fun a _ ha => ?_) fun a _ ha => ?_
  · by_cases e : a = b
    · rw [e, S.bay]; rfl
    · rw [S.bays a e]
  · rw [S.frame.boardAt (by simp), ha]
  · rw [S.frame.increaseAt (by simp), ha]

theorem State.onSession_ties (s : State) (b : Fin 32) (f : Session → Session) : KeepsTies s (s.onSession b f) := by
  unfold State.onSession
  split
  · exact State.setBay_ties (by rfl)
  · exact .refl s

/-! ### The cabinets' messages (chapter 8) -/

theorem State.fitOutlet_ties (s : State) (b : Fin 32) (cap : Nat) : KeepsTies s (s.fitOutlet b cap) := by
  simp only [State.fitOutlet]
  split
  · exact KeepsTies.trans (State.setBay_ties (by rfl)) ((State.mark_frame _ b).ties rfl)
  · exact KeepsTies.trans (State.setBay_ties (by rfl)) (State.limitVehicle_ties _ b)

theorem State.unfitOutlet_ties (s : State) (b : Fin 32) : KeepsTies s (s.unfitOutlet b) := by
  unfold State.unfitOutlet
  split
  · exact .refl s
  · exact ((s.endSession_ties b).trans (State.setBay_ties (by rfl))).trans ((State.mark_frame _ b).ties rfl)

theorem outletsBody_ties (c : Fin 4) (m : Msg) (s : State) : KeepsTies s (outletsBody c m s).1 := by
  simp only [outletsBody]
  split
  · rw [done_fst]
    refine KeepsTies.foldl (fun u o => ?_) allOutlets s
    split
    · exact u.fitOutlet_ties _ _
    · exact u.unfitOutlet_ties _
  · exact .refl s

theorem plugBody_ties (c : Fin 4) (m : Msg) (s : State) : KeepsTies s (plugBody c m s).1 := by
  unfold plugBody
  split
  · simp only
    split
    · exact .refl s
    · exact (s.endSession_ties _).trans (State.startSession_ties _ _ _ _)
  · exact .refl s

theorem unplugBody_ties (c : Fin 4) (m : Msg) (s : State) : KeepsTies s (unplugBody c m s).1 := by
  simp only [unplugBody]
  split
  · exact .refl s
  · exact .refl s
  · exact s.endSession_ties _

theorem State.meter_ties (s : State) (b : Fin 32) (x : Session) (f : MeterFields) : KeepsTies s (s.meter b x f) := by
  have takes : ∀ u : State, KeepsTies u (u.takeApplied b f) := fun u => by
    unfold State.takeApplied
    split
    · exact u.resync_ties b _ _
    · exact u.confirm_ties b _
  exact KeepsTies.trans (KeepsTies.trans (KeepsTies.trans (State.setBay_ties (by rfl)) (State.limitVehicle_ties _ b)) (takes _))
    (State.satisfy_ties _ b)

theorem meterBody_ties (c : Fin 4) (m : Msg) (s : State) : KeepsTies s (meterBody c m s).1 := by
  simp only [meterBody]
  split
  · simp only
    split
    · exact s.meter_ties _ _ _
    · exact s.endSession_ties _
  · exact .refl s

theorem appliedBody_ties (c : Fin 4) (m : Msg) (s : State) : KeepsTies s (appliedBody c m s).1 := by
  unfold appliedBody
  split
  · exact s.confirm_ties _ _
  · exact .refl s

/-- A ROUND END of an attached port sets a flag that a DETACHED port alone must not have (R119, R137). -/
theorem roundEndBody_ties {c : Fin 4} {m : Msg} {s : State} (h : (s.port (.c c)).health ≠ .detached) :
    KeepsTies s (roundEndBody c m s).1 := by
  refine ⟨fun _ => .refl _, rfl, fun _ => rfl, fun _ _ => id, fun _ _ => id, fun d hd e => ?_, fun d hd e => ?_⟩
  all_goals
    have other : d ≠ c := fun dc => h (dc ▸ hd)
    simpa only [roundEndBody, State.cabinet_setCabinet, if_neg other] using e

theorem outletFaultBody_ties (c : Fin 4) (m : Msg) (s : State) : KeepsTies s (outletFaultBody c m s).1 := by
  have faults : ∀ b x code, KeepsTies s (s.faultOutlet b x code) := fun b x code => by
    have stores : KeepsTies s (s.setBay b { s.bay b with occ := .session { x with phase := .fault code } }) :=
      State.setBay_ties (by rfl)
    simp only [State.faultOutlet]
    refine KeepsTies.trans ?_ ((State.raiseS_frame _ _).ties rfl)
    split
    · exact stores
    · exact stores.trans (State.publish_ties _ b 0)
  unfold outletFaultBody
  split
  · simp only
    split
    · exact .refl s
    · exact .refl s
    · exact faults _ _ _
  · exact .refl s

/-! ### Roster edits (chapters 1 and 9) -/

theorem State.relink_ties (s : State) (k : Fin 64) : KeepsTies s (s.relink k) := by
  have denies : ∀ (l : List (Fin 32)) (d : Disposition) (u : State),
      KeepsTies u (l.foldl (fun v b => v.onSession b (·.deny d)) u) := fun l d u => .foldl (fun v b => v.onSession_ties b _) l u
  unfold State.relink
  split
  · exact .refl s
  · rename_i e _
    refine .ite fun _ => ?_
    simp only
    split
    · exact denies _ .refused s
    · cases allBays.filter (s.relinks e.tag) with
      | nil => exact .refl s
      | cons b rest =>
        have links := ((s.onSession_ties b (·.grantSlot k)).trans ((State.setEntry_frame _ k
          (some { e with state := .plugged b false })).ties rfl)).trans (denies rest .duplicate _)
        simp only [State.linkBays]
        split
        · exact links
        · exact links.trans ((State.raiseD_frame _ _).ties rfl)

theorem State.updateEntry_ties (s : State) (k : Fin 64) (e : Entry) (f : PutFields) : KeepsTies s (s.updateEntry k e f) := by
  have puts := (s.setEntry_frame k (some (e.put f))).ties rfl
  have leaves : ∀ (u : State) (n : Nat), KeepsTies u (u.leavePlugged k n) := fun u n => by
    unfold State.leavePlugged
    split
    · exact ((u.setEntry_frame k _).ties rfl).trans ((State.evalOverdue_frame _).ties rfl)
    · exact .refl u
  simp only [State.updateEntry]
  split
  · split
    · exact puts.trans ((leaves _ _).trans (State.onSession_ties _ _ _))
    · exact puts
  · exact puts

theorem rosterPutBody_ties (m : Msg) (s : State) : KeepsTies s (rosterPutBody m s).1 := by
  unfold rosterPutBody
  split
  · exact .refl s
  · split
    · split
      · exact (s.updateEntry_ties _ _ _).trans (State.relink_ties _ _)
      · exact .refl s
    · split
      · exact .refl s
      · split
        · exact .refl s
        · exact (((s.setEntry_frame _ _).ties rfl).trans ((State.setIndex_frame _ _ _).ties rfl)).trans (State.relink_ties _ _)

theorem rosterDropBody_ties (m : Msg) (s : State) : KeepsTies s (rosterDropBody m s).1 := by
  unfold rosterDropBody
  split
  · simp only
    split
    · exact .refl s
    · split
      · exact .refl s
      · split
        · exact .refl s
        · exact ((s.setEntry_frame _ _).ties rfl).trans ((State.setIndex_frame _ _ _).ties rfl)
  · exact .refl s

end Sys2Proof.Machine
end

section
/-!
SUPPORT. Link ports and the bays they reach through rounds, slots, passes and changes of mode (R79, R82 to R92, R126, R157 to
R160).
-/
namespace Sys2Proof.Machine

/-! ### Rounds and the shed (R44, R45, R79, R92) -/

theorem RoundStarts.ties {s t : State} (r : RoundStarts s t) : KeepsTies s t where
  port p := .inl (r.frame.port (by simp) p)
  rebuild := r.frame .rebuild (by simp)
  reachable b := by rw [r.bays]
  board b _ h := by rw [r.frame.boardAt (by simp), h]
  increase b _ _ := r.increases b
  silence c _ h := by
    rw [r.cabinets]
    split
    · exact h
    · exact h
  roundEnd c _ h := by
    rw [r.cabinets]
    split
    · rfl
    · exact h

/-- What leaves ports, rebuild, bays, board, increases and cabinets as they are. -/
theorem KeepsTies.of_eq {s t : State} (hp : t.ports = s.ports) (hr : t.rebuild = s.rebuild) (hb : t.bays = s.bays)
    (hd : t.pub.board = s.pub.board) (hi : t.pub.pending = s.pub.pending) (hc : t.cabinets = s.cabinets) : KeepsTies s t where
  port p := .inl (by simp only [State.port, hp])
  rebuild := hr
  reachable b := by simp only [State.bay, hb]
  board b _ h := by simpa only [State.board, hd] using h
  increase b _ h := by simpa only [State.pendingInc, hi] using h
  silence c _ h := by simpa only [State.cabinet, hc] using h
  roundEnd c _ h := by simpa only [State.cabinet, hc] using h

theorem EarlyRound.ties {s t : State} (r : EarlyRound s t) : KeepsTies s t := by
  unfold EarlyRound at r
  split at r
  · rw [r]; exact .refl s
  · split at r
    · rw [r]; exact .of_eq rfl rfl rfl rfl rfl rfl
    · exact r.ties

theorem RequestsIf.ties {c : Prop} {s t : State} (r : RequestsIf c s t) : KeepsTies s t := by
  by_cases h : c
  · exact (r.round h).ties
  · rw [r.quiet h]; exact .refl s

theorem State.halveAll_ties (s : State) : KeepsTies s s.halveAll :=
  .foldl (fun _ _ => .ite fun h => State.issue_ties h.1 _) allBays s

theorem State.assertShed_ties (s : State) : KeepsTies s s.assertShed := by
  have shed : KeepsTies s { s with env := { s.env with shed := true } } := (env_frame s _).ties rfl
  refine KeepsTies.trans ?_ (State.requestEarly_spec _).ties
  refine KeepsTies.trans ?_ (((State.evalShed_frame _).trans (State.evalExceeded_frame _)).ties rfl)
  split
  · exact shed
  · exact shed.trans (State.halveAll_ties _)

theorem State.releaseShed_ties (s : State) : KeepsTies s s.releaseShed := (s.handShed_spec false).frame.ties rfl

theorem State.setupPins_ties (s : State) (fn dir pins : Byte) : KeepsTies s (s.setupPins fn dir pins) := by
  have set := (s.withPins_frame fn dir pins).ties rfl
  rw [State.setupPins_eq]
  split
  · exact set
  · split
    · split
      · exact set
      · exact set.trans (State.assertShed_ties _)
    · split
      · exact set.trans (State.releaseShed_ties _)
      · exact set

/-! ### Slots and passes (R82 to R87) -/

theorem State.increase_ties (s : State) (b : Fin 32) (target : Nat) : KeepsTies s (s.increase b target) := by
  simp only [State.increase]
  exact .ite fun _ => (s.publish_ties b _).trans (.of_eq rfl rfl rfl rfl rfl rfl)

theorem State.takeSlot_ties (s : State) (k : Fin 4) : KeepsTies s (s.takeSlot k) := by
  have opens : KeepsTies s { s with pub := { s.pub with used := 0 } } := .of_eq rfl rfl rfl rfl rfl rfl
  refine opens.trans (.foldl (fun u b => ?_) _ _)
  unfold State.evaluateAt
  split
  · exact .refl u
  · exact .ite fun _ => (u.increase_ties b _).trans (State.setPendingInc_ties _ b)

/-- An increase is noted for a reachable bay alone (R85). -/
theorem State.noted_ties (s : State) (sn : Snapshot) : KeepsTies s (s.noted sn) := by
  refine (s.noted_frame sn).ties_but (fun b => by rw [(s.noted_frame sn).bay (by simp)])
    (fun b _ h => by rw [(s.noted_frame sn).boardAt (by simp), h]) fun b hb h => ?_
  unfold State.noted
  split
  · rw [State.pendingInc_noteIncreases]
    unfold State.notedIncrease
    rw [if_neg fun c => by rw [hb] at c; cases c.2.2.1]
    exact h
  · exact h

theorem State.finishPass_ties (s : State) (sn : Snapshot) : KeepsTies s (s.finishPass sn) := by
  have R := s.recorded_spec sn
  have records : KeepsTies s (s.recorded sn) :=
    R.frame.ties_but (fun b => by rw [R.bays]) (fun b _ h => by rw [R.frame.boardAt (by simp), h])
      fun b _ h => by rw [R.frame.increaseAt (by simp), h]
  have decreases : ∀ u : State, KeepsTies u (allBays.foldl (State.decrease sn sn.shares) u) :=
    KeepsTies.foldl (fun u b => .ite fun _ => u.publish_ties b _) allBays
  have opens : ∀ u : State, KeepsTies u u.opened := fun u => .ite fun _ => u.takeSlot_ties 0
  rw [s.finishPass_eq]
  exact (((records.trans (decreases _)).trans (State.noted_ties _ sn)).trans (opens _)).trans
    ((State.endPass_frame _).ties rfl)

/-! ### Changes of mode (R126, R157 to R160) -/

theorem SilenceStarts.ties {s t : State} (x : SilenceStarts s t) : KeepsTies s t := by
  have kept : ∀ c, (s.port (.c c)).health = .detached → t.cabinet c = s.cabinet c := fun c hd => by
    rw [x.cabinets, if_neg fun h => h.2 hd]
  exact ⟨fun p => .inl (x.frame.port (by simp) p), x.frame .rebuild (by simp), fun b => by rw [x.frame.bay (by simp)],
    fun b _ h => by rw [x.frame.boardAt (by simp), h], fun b _ h => by rw [x.frame.increaseAt (by simp), h],
    fun c hd h => by rw [kept c hd, h], fun c hd h => by rw [kept c hd, h]⟩

theorem healthOf_detached {n : Nat} : healthOf n = .detached ↔ 255 ≤ n := by
  unfold healthOf
  split_ifs <;> simp <;> omega

/-- A port whose counts Link Health has made 0 (R122, R126), with what it had buffered and queued. -/
theorem LinkPort.Ok.restored {r : LinkPort} (h : r.Ok) (x : Receiver) :
    LinkPort.Ok { r with rx := x, errors := 0, health := .sound, rejoin := 0 } :=
  ⟨Nat.zero_le _, rfl, Nat.succ_pos _, h.buffers, h.queue, fun hd => (by cases hd), fun _ => rfl⟩

/-- With every port attached and every bay reachable, nothing of R119 is asked. -/
theorem State.ReachOk.of_attached {s : State} (hb : ∀ b, (s.bay b).reachable = true)
    (hp : ∀ c, (s.port (.c c)).health ≠ .detached) : s.ReachOk :=
  ⟨fun b => ⟨fun _ => hp _, fun _ => hb b⟩, fun b h => (by rw [hb b] at h; cases h), fun c h => absurd h (hp c)⟩

/-- The D-port's queue is read of the rebuild's room (R105). -/
theorem State.LinksOk.of_ports {s t : State} (h : s.LinksOk) (hp : ∀ p, (t.port p).Ok)
    (hr : t.rebuild.isSome = true → s.rebuild.isSome = true)
    (hq : (t.port .d).queue.length ≤ (s.port .d).queue.length) : t.LinksOk :=
  ⟨hp, fun h' => hq.trans (h.room (hr h'))⟩

/-- An entry to CONFIGURE leaves every port SOUND and every bay reachable (R126). -/
theorem EntersConfigure.tied {s t : State} (c : EntersConfigure s t) (h : s.Tied) : t.Tied := by
  have sound : ∀ p, LinkPort.Roused { s.port p with errors := 0, health := .sound, rejoin := 0 } (t.port p) := fun p => by
    rcases c.ports p with e | ⟨idle, e⟩
    · exact .inl e
    · exact .inr ⟨idle, by simp, e⟩
  refine ⟨h.links.of_ports (fun p => (sound p).ok ((h.links.port p).restored _)) (fun hr => ?_) ?_,
    .of_attached (fun b => ?_) fun d => ?_⟩
  · rwa [show t.rebuild = s.rebuild from c.frame .rebuild (by simp)] at hr
  · rw [(sound .d).queue]
  · rw [c.bays]
    simp only
    split
    · rfl
    · rename_i hd; exact (h.reach.reachable b).mpr hd
  · rw [(sound _).health]; simp

theorem ModeTakesEffect.tied {s t : State} {m : Mode} (c : ModeTakesEffect s t m) (h : s.Tied) : t.Tied := by
  unfold ModeTakesEffect at c
  split at c
  · rw [c]
    refine KeepsTies.tied (s := s) ?_ h
    exact .of_eq rfl rfl rfl rfl rfl rfl
  · split at c
    · exact c.tied h
    · split at c
      · obtain ⟨u, silence, starts⟩ := c
        refine starts.ties.tied (KeepsTies.tied ?_ (silence.ties.tied h))
        exact .of_eq rfl rfl rfl rfl rfl rfl
      · obtain ⟨u, silence, swaps⟩ := c
        rw [swaps]
        refine KeepsTies.tied (silence.ties.trans ?_) h
        split
        · have drops : KeepsTies u u.dropIncreases :=
            u.dropIncreases_frame.ties_but (fun _ => rfl) (fun _ _ => id) fun b _ _ => u.pendingInc_dropIncreases b
          refine drops.trans ?_
          exact .of_eq rfl rfl rfl rfl rfl rfl
        · exact .of_eq rfl rfl rfl rfl rfl rfl

theorem State.Tied.completePass {s : State} (h : s.Tied) (sn : Snapshot) : (s.completePass sn).Tied := by
  have modes : ∀ u : State, u.Tied → u.takePendingMode.Tied := fun u hu => by
    unfold State.takePendingMode
    split
    · exact (u.changeMode_spec _).tied hu
    · exact hu
  have requests : ∀ u : State, KeepsTies u u.takeHeldRequest := fun u => by
    have cleared : KeepsTies u { u with alloc := { u.alloc with early := false } } := .of_eq rfl rfl rfl rfl rfl rfl
    unfold State.takeHeldRequest
    split
    · simp only
      split
      · exact cleared
      · exact cleared.trans (State.roundStart_spec _).ties
    · exact .refl u
  exact (requests _).tied (modes _ ((s.finishPass_ties sn).tied h))

end Sys2Proof.Machine
end

section
/-!
PROOFS. Link ports and the bays they reach through every step (R104, R105, R109, R116, R118 to R122): O55.
-/
namespace Sys2Proof.Machine

/-! ### Outcomes (R103, R116, R118 to R122) -/

/-- A port written in order, as healthy as it was, its queue leaving the place that a rebuild keeps on the D-port (R105). -/
theorem State.Tied.setPort {s : State} (h : s.Tied) {p : Port} {x : LinkPort} (hx : x.Ok) (hh : x.health = (s.port p).health)
    (hq : p = .d → s.rebuild.isSome = true → x.queue.length ≤ 7) : (s.setPort p x).Tied := by
  have health : ∀ q, ((s.setPort p x).port q).health = (s.port q).health := fun q => by
    rw [State.port_setPort]
    split
    · rename_i e; rw [hh, e]
    · rfl
  refine ⟨⟨fun q => ?_, fun hr => ?_⟩, fun b => ?_, h.reach.board, fun c hc => ?_⟩
  · rw [State.port_setPort]
    split
    · exact hx
    · exact h.links.port q
  · rw [State.port_setPort]
    split
    · rename_i e; exact hq e.symm hr
    · exact h.links.room hr
  · rw [health]; exact h.reach.reachable b
  · rw [health] at hc; exact h.reach.cabinet c hc

/-- The same of a port whose queue does not grow. -/
theorem State.Tied.setPort_of_queue {s : State} (h : s.Tied) {p : Port} {x : LinkPort} (hx : x.Ok)
    (hh : x.health = (s.port p).health) (hq : x.queue.length ≤ (s.port p).queue.length) : (s.setPort p x).Tied :=
  h.setPort hx hh fun e hr => hq.trans (e ▸ h.links.room hr)

theorem State.Tied.setRx {s : State} (h : s.Tied) (p : Port) (x : Receiver) : (s.setRx p x).Tied := by
  have ok := h.links.port p
  exact h.setPort_of_queue ⟨ok.errors, ok.health, ok.rejoin, ok.buffers, ok.queue, ok.silent, ok.attached⟩ rfl le_rfl

theorem Detaches.tied {s t : State} {p : Port} {rx : Receiver} (d : Detaches s t p rx) (h : s.Tied) : t.Tied := by
  have others : ∀ c, p ≠ .c c → t.port (.c c) = s.port (.c c) := fun c e => d.ports _ (Ne.symm e)
  refine ⟨⟨fun q => ?_, fun hr => ?_⟩, fun b => ?_, fun b hb => ?_, fun c hc => ?_⟩
  · by_cases e : q = p
    · rw [e, d.port]
      exact ⟨le_rfl, rfl, Nat.succ_pos _, Nat.zero_le _, Nat.zero_le _, fun _ => ⟨rfl, rfl, rfl⟩, fun hn => absurd rfl hn⟩
    · rw [d.ports q e]; exact h.links.port q
  · by_cases e : Port.d = p
    · rw [e, d.port]; exact Nat.zero_le _
    · rw [d.ports _ e]
      exact h.links.room (by rwa [← show t.rebuild = s.rebuild from d.frame .rebuild (by simp)])
  · rw [d.bays]
    split
    · rename_i e; rw [← e, d.port]; simp
    · rename_i e; rw [others _ e]; exact h.reach.reachable b
  · rw [d.bays] at hb
    rw [d.board, d.increases]
    split
    · exact ⟨rfl, rfl⟩
    · rename_i e; rw [if_neg e] at hb; exact h.reach.board b hb
  · rw [d.cabinets]
    split
    · exact ⟨rfl, rfl⟩
    · rename_i e; rw [others c e] at hc; exact h.reach.cabinet c hc

theorem Rejoins.tied {s t : State} {p : Port} (r : Rejoins s t p (s.port p).rx) (h : s.Tied) : t.Tied := by
  have sound : (t.port p).health = .sound := by rw [r.port]
  have others : ∀ c, p ≠ .c c → t.port (.c c) = s.port (.c c) := fun c e => r.ports _ (Ne.symm e)
  refine ⟨h.links.of_ports (fun q => ?_) (fun hr => ?_) ?_, fun b => ?_, fun b hb => ?_, fun c hc => ?_⟩
  · by_cases e : q = p
    · rw [e, r.port]; exact (h.links.port p).restored _
    · rw [r.ports q e]; exact h.links.port q
  · rwa [← show t.rebuild = s.rebuild from r.frame .rebuild (by simp)]
  · by_cases e : Port.d = p
    · rw [e, r.port]
    · rw [r.ports _ e]
  · rw [r.bays]
    split
    · rename_i e; rw [← e, sound]; simp
    · rename_i e; rw [others _ e]; exact h.reach.reachable b
  · rw [r.bays] at hb
    split at hb
    · cases hb
    · rw [r.frame.boardAt (by simp), r.frame.increaseAt (by simp)]; exact h.reach.board b hb
  · have e : p ≠ .c c := fun e => by rw [← e, sound] at hc; cases hc
    rw [r.cabinets, if_neg fun x => e x.1]
    exact h.reach.cabinet c (by rwa [others c e] at hc)

/-- A count that stays below 255 leaves an attached port attached (R116). -/
theorem LinkPort.Ok.counted {r : LinkPort} (h : r.Ok) (hd : r.health ≠ .detached) {n : Nat} (hn : n < 255) :
    LinkPort.Ok { r with errors := n, health := healthOf n } ∧ healthOf n ≠ .detached := by
  have attached : healthOf n ≠ .detached := fun e => by have := healthOf_detached.mp e; omega
  exact ⟨⟨hn.le, rfl, h.rejoin, h.buffers, h.queue, fun e => absurd e attached, fun _ => h.attached hd⟩, attached⟩

/-- What counts an outcome on an attached port, and starts its silence timer at most, leaves ports and bays in order. -/
theorem State.Tied.counted {l : List Block} {s t : State} (h : s.Tied) {p : Port} {n : Nat} (f : SameBut l s t)
    (hd : (s.port p).health ≠ .detached) (hn : n < 255)
    (port : t.port p = { s.port p with errors := n, health := healthOf n }) (ports : ∀ q, q ≠ p → t.port q = s.port q)
    (cabinets : ∀ c, p ≠ .c c → t.cabinet c = s.cabinet c) (hb : .bays ∉ l := by decide) (hr : .rebuild ∉ l := by decide)
    (ho : .board ∉ l := by decide) (hi : .increases ∉ l := by decide) : t.Tied := by
  obtain ⟨ok, attached⟩ := (h.links.port p).counted hd hn
  have health : ∀ q, (t.port q).health = .detached ↔ (s.port q).health = .detached := fun q => by
    by_cases e : q = p
    · rw [e, port]; exact iff_of_false attached hd
    · rw [ports q e]
  refine ⟨h.links.of_ports (fun q => ?_) (fun x => ?_) ?_, fun b => ?_, fun b hb' => ?_, fun c hc => ?_⟩
  · by_cases e : q = p
    · rw [e, port]; exact ok
    · rw [ports q e]; exact h.links.port q
  · rwa [← show t.rebuild = s.rebuild from f .rebuild hr]
  · by_cases e : Port.d = p
    · rw [e, port]
    · rw [ports _ e]
  · rw [f.bay hb, h.reach.reachable b]; exact not_congr (health _).symm
  · rw [f.bay hb] at hb'
    rw [f.boardAt ho, f.increaseAt hi]; exact h.reach.board b hb'
  · have hc := (health _).mp hc
    rw [cabinets c fun e => hd (e ▸ hc)]
    exact h.reach.cabinet c hc

theorem State.Tied.reject {s : State} (h : s.Tied) (p : Port) : (s.reject p).Tied := by
  have ok := h.links.port p
  by_cases hd : (s.port p).health = .detached
  · rw [State.reject_detached hd]
    exact h.setPort_of_queue
      ⟨ok.errors, ok.health, Nat.succ_pos _, ok.buffers, ok.queue, ok.silent, fun e => absurd hd e⟩ rfl le_rfl
  · by_cases he : (s.port p).errors + 8 < 255
    · have R := State.reject_spec hd he
      exact h.counted R.frame hd he R.port R.ports fun c _ => R.frame.cabinet (by simp) c
    · rw [State.reject_detaches hd (Nat.not_lt.mp he)]
      exact (s.detach_spec p).tied h

theorem State.Tied.accept {s : State} (h : s.Tied) {p : Port} (hd : (s.port p).health ≠ .detached) : (s.accept p).Tied := by
  have A := s.accept_spec p
  have ok := h.links.port p
  refine h.counted A.frame hd ?_ A.port A.ports fun c e => by rw [A.cabinets, if_neg fun x => e x.1]
  have := ok.errors
  omega

theorem State.Tied.acceptDetached {s : State} (h : s.Tied) {p : Port} (hd : (s.port p).health = .detached) (kind : Byte) :
    (s.acceptDetached p kind).Tied := by
  have ok := h.links.port p
  unfold State.acceptDetached
  simp only
  split
  · split
    · exact (s.rejoin_spec p).tied h
    · rename_i below
      exact h.setPort_of_queue
        ⟨ok.errors, ok.health, Nat.not_le.mp below, ok.buffers, ok.queue, ok.silent, fun e => absurd hd e⟩ rfl le_rfl
  · exact h

theorem State.overrun_ties (s : State) (p : Port) : KeepsTies s (s.overrun p) := by
  unfold State.overrun
  split
  · exact (s.raiseD_frame _).ties rfl
  · exact (s.raiseS_frame _).ties rfl

theorem State.Tied.handOn {s : State} (h : s.Tied) (p : Port) (x : Item) : (s.handOn p x).Tied := by
  have ok := h.links.port p
  unfold State.handOn
  simp only
  split
  · exact h
  · rename_i hd
    split
    · rename_i room
      refine h.setPort_of_queue
        ⟨ok.errors, ok.health, ok.rejoin, ?_, ok.queue, fun e => absurd e hd, fun _ => ok.attached hd⟩ rfl le_rfl
      simpa using room
    · exact (s.overrun_ties p).tied h

theorem State.Tied.deliver {s : State} (h : s.Tied) (p : Port) (m : Msg) (good : Bool) : (s.deliver p m good).Tied := by
  unfold State.deliver
  split
  · split
    · rename_i hd; exact h.acceptDetached hd _
    · rename_i hd; exact (h.accept hd).handOn p _
  · split
    · exact (h.reject p).handOn p _
    · exact h.reject p

/-! ### Receivers and transmitters (R100, R110) -/

theorem State.Tied.faultHeader {s : State} (h : s.Tied) (p : Port) : (s.faultHeader p).Tied := (h.setRx p _).reject p

theorem State.Tied.completeMessage {s : State} (h : s.Tied) (p : Port) : (s.completeMessage p).Tied := by
  unfold State.completeMessage
  split
  · split
    · exact (h.setRx p _).deliver p _ _
    · exact h
  · exact h

theorem State.Tied.settle {s : State} (h : s.Tied) (p : Port) : (s.settle p).Tied := by
  unfold State.settle
  split
  · exact h.faultHeader p
  · split
    · exact h.completeMessage p
    · exact h

theorem State.Tied.character {s : State} (h : s.Tied) (p : Port) (b : Byte) : (s.character p b).Tied := by
  unfold State.character
  split
  · exact h.faultHeader p
  · exact h
  · exact h.setRx p _
  · exact h.setRx p _

/-- A transmitter that is not IDLE is an attached port's, and may be given anything to send (R118). -/
theorem LinkPort.Ok.transmits {r : LinkPort} (h : r.Ok) (ht : r.tx ≠ .idle) {q : List Msg} (hq : q.length ≤ r.queue.length)
    (x : Transmitter) : LinkPort.Ok { r with queue := q, tx := x } := by
  have attached : r.health ≠ .detached := fun hd => ht (h.silent hd).2.2
  exact ⟨h.errors, h.health, h.rejoin, h.buffers, hq.trans h.queue, fun hd => absurd hd attached, h.attached⟩

theorem State.Tied.transmits {s : State} (h : s.Tied) {p : Port} (ht : (s.port p).tx ≠ .idle) {q : List Msg}
    (hq : q.length ≤ (s.port p).queue.length) (x : Transmitter) :
    (s.setPort p { s.port p with queue := q, tx := x }).Tied :=
  h.setPort_of_queue ((h.links.port p).transmits ht hq x) rfl hq

theorem State.Tied.beginSending {s : State} (h : s.Tied) {p : Port} (ht : (s.port p).tx ≠ .idle) : (s.beginSending p).Tied := by
  have replies : (s.sendReply p).Tied := by
    simp only [State.sendReply]
    split
    · rename_i m rest hq
      exact h.transmits ht (by rw [hq]; simp) _
    · exact h.transmits ht le_rfl _
  unfold State.beginSending
  split
  · split
    · exact State.Tied.transmits ((State.setBoard_ties (.inr rfl)).tied h) ht le_rfl _
    · exact replies
  · exact replies

/-! ### The handler (R104, R105, R109) -/

/-- What a handler offers is the oldest item of a READY handler (R105). -/
theorem State.offered_eq_some {s : State} {p : Port} {x : Item} : s.offered p = some x ↔
    s.resetLow = false ∧ s.handler p = .ready ∧ (s.port p).buffers.head? = some x := by
  unfold State.offered
  cases s.resetLow <;> by_cases h : s.handler p = .ready <;> simp [h]

theorem State.handler_ready {s : State} {p : Port} (h : s.handler p = .ready) :
    (p = .d → s.rebuild = none) ∧ ((s.port p).buffers ≠ [] → (s.port p).queue.length ≤ 7) := by
  unfold State.handler at h
  split at h
  · cases h
  · rename_i held
    split at h
    · cases h
    · rename_i stalled
      exact ⟨fun e => by simpa [e] using held,
        fun e => Nat.le_of_lt_succ (Nat.not_le.mp fun x => stalled ⟨e, x⟩)⟩

/-- A handler that offers an item has room for its answer, and its port is attached (R105, R118). -/
theorem State.Tied.offers {s : State} (h : s.Tied) {p : Port} {x : Item} (ho : s.offered p = some x) :
    (s.port p).queue.length ≤ 7 ∧ (p = .d → s.rebuild = none) ∧ (s.port p).health ≠ .detached := by
  obtain ⟨-, ready, oldest⟩ := State.offered_eq_some.mp ho
  obtain ⟨free, room⟩ := State.handler_ready ready
  have waits : (s.port p).buffers ≠ [] := fun e => by rw [e] at oldest; cases oldest
  exact ⟨room waits, free, fun hd => waits ((h.links.port p).silent hd).1⟩

theorem State.Tied.take {s : State} (h : s.Tied) (p : Port) : (s.take p).Tied := by
  have ok := h.links.port p
  refine h.setPort_of_queue ⟨ok.errors, ok.health, ok.rejoin, ?_, ok.queue, fun hd => ?_, ok.attached⟩ rfl le_rfl
  · have := ok.buffers
    simp only [List.length_tail]
    omega
  · obtain ⟨buffers, queue, tx⟩ := ok.silent hd
    exact ⟨by simp [buffers], queue, tx⟩

/-- A reply finds a place in the answer queue (R109). -/
theorem State.Tied.reply {s : State} (h : s.Tied) {p : Port} (hq : (s.port p).queue.length ≤ 7)
    (hr : p = .d → s.rebuild = none) (m : Msg) : (s.reply p m).Tied := by
  have ok := h.links.port p
  by_cases hd : (s.port p).health = .detached
  · rw [State.reply_detached m hd]; exact h
  · rw [State.reply_eq_sends m hd]
    refine h.setPort ⟨ok.errors, ok.health, ok.rejoin, ok.buffers, ?_, fun e => absurd e hd, ok.attached⟩ rfl fun e x => ?_
    · simp only [LinkPort.queued, List.length_append, List.length_singleton]; omega
    · rw [hr e] at x; cases x

/-- What the rule of a kind must leave, so that its reply has a place: the port's queue no longer, no rebuild begun with a
reply. -/
structure Answers (s t : State) (p : Port) (r : Option Msg) : Prop where
  tied : t.Tied
  queue : (t.port p).queue.length ≤ (s.port p).queue.length
  rebuild : r.isSome = true → t.rebuild.isSome = true → s.rebuild.isSome = true

theorem KeepsTies.answers {s t : State} (k : KeepsTies s t) (h : s.Tied) (p : Port) (r : Option Msg) : Answers s t p r :=
  ⟨k.tied h, by rw [(k.port p).queue], fun _ hr => by rwa [← k.rebuild]⟩

/-- The reply of the rule of a kind finds its place (R105, R109). -/
theorem Answers.replyWith {s t : State} {p : Port} {r : Option Msg} (A : Answers s t p r)
    (room : (s.port p).queue.length ≤ 7) (free : p = .d → s.rebuild = none) : (t.replyWith p r).Tied := by
  cases r with
  | none => exact A.tied
  | some a =>
    refine A.tied.reply (A.queue.trans room) (fun e => ?_) a
    have none : ¬ t.rebuild.isSome = true := fun some => by
      have := A.rebuild rfl some
      rw [free e] at this; cases this
    simpa using none

theorem State.Tied.handle {s : State} (h : s.Tied) {k : Kind} {p : Port} {body : Msg → State → State × Option Msg}
    (hb : ∀ m u, u.Tied → (u.port p).health ≠ .detached → k.accepts p = true → (u.port p).queue.length ≤ 7 →
      Answers u (body m u).1 p (body m u).2) : (s.handle k p body).Tied := by
  have taken := h.take p
  have queue : ((s.take p).port p).queue = (s.port p).queue := by simp
  unfold State.handle
  split
  · rename_i m ho
    obtain ⟨room, free, attached⟩ := h.offers ho
    split
    · split
      · rename_i passes
        have accepts : k.accepts p = true := by
          by_contra no
          unfold Kind.check Kind.fail at passes
          rw [if_pos (by simpa using no)] at passes
          split at passes <;> cases passes
        exact (hb m _ taken (by rwa [State.take_health]) accepts (by rwa [queue])).replyWith (by rwa [queue]) free
      · exact taken.reply (queue ▸ room) free _
      · exact taken
    · exact h
  · exact h

/-- The same of a rule that leaves ports and bays tied. -/
theorem State.Tied.handle_ties {s : State} (h : s.Tied) {k : Kind} {p : Port} {body : Msg → State → State × Option Msg}
    (hb : ∀ m u, KeepsTies u (body m u).1) : (s.handle k p body).Tied :=
  h.handle fun m u hu _ _ _ => (hb m u).answers hu p _

/-! ### The D-port's and the S-port's requests -/

theorem clockSetBody_ties (m : Msg) (s : State) : KeepsTies s (clockSetBody m s).1 := by
  unfold clockSetBody
  split
  · rw [done_fst, State.setClock_eq]; exact (s.evaluateDepartures_evaluates _).frame.ties rfl
  · exact .refl s

theorem settings_ties (s : State) (x : Settings) : KeepsTies s { s with settings := x } := .of_eq rfl rfl rfl rfl rfl rfl

theorem vanPolicyBody_ties (m : Msg) (s : State) : KeepsTies s (vanPolicyBody m s).1 := by
  unfold vanPolicyBody
  split
  · exact settings_ties s _
  · exact .refl s

theorem replyLimitBody_ties (p : Port) (m : Msg) (s : State) : KeepsTies s (replyLimitBody p m s).1 := by
  unfold replyLimitBody
  split
  · rw [done_fst]
    unfold State.setLimit
    split
    · exact settings_ties s _
    · exact settings_ties s _
  · exact .refl s

theorem readBody_ties (p : Port) (pins : PinReading) (m : Msg) (s : State) : KeepsTies s (readBody p pins m s).1 := by
  unfold readBody
  split
  · exact (s.recognise_frame _).ties rfl
  · exact .refl s

theorem noticeEnableBody_ties (p : Port) (m : Msg) (s : State) : KeepsTies s (noticeEnableBody p m s).1 := by
  unfold noticeEnableBody
  split
  · rw [done_fst]; exact (s.onSet_frame p _).ties rfl
  · exact .refl s

theorem noticeClearBody_ties (p : Port) (m : Msg) (s : State) : KeepsTies s (noticeClearBody p m s).1 := by
  unfold noticeClearBody
  split
  · rw [done_fst]; exact (s.onSet_frame p _).ties rfl
  · exact .refl s

theorem siteLimitBody_ties (m : Msg) (s : State) : KeepsTies s (siteLimitBody m s).1 := by
  unfold siteLimitBody
  split
  · rw [done_fst]
    exact (((env_frame s _).ties rfl).trans ((State.evalExceeded_frame _).ties rfl)).trans (State.requestIfExceeded_spec _).ties
  · exact .refl s

theorem loadReportBody_ties (m : Msg) (s : State) : KeepsTies s (loadReportBody m s).1 := by
  unfold loadReportBody
  split
  · rw [done_fst]
    have evaluates := fun u : State => (u.evalExceeded_frame.trans (State.evalLoadStale_frame _)).ties rfl
    exact (((env_frame s _).ties rfl).trans (evaluates _)).trans (State.requestIfExceeded_spec _).ties
  · exact .refl s

theorem rampLimitBody_ties (m : Msg) (s : State) : KeepsTies s (rampLimitBody m s).1 := by
  unfold rampLimitBody
  split
  · exact (env_frame s _).ties rfl
  · exact .refl s

theorem releaseCabinetBody_ties (m : Msg) (s : State) : KeepsTies s (releaseCabinetBody m s).1 := by
  simp only [releaseCabinetBody]
  split
  · exact .refl s
  · split
    · exact .refl s
    · rw [done_fst]; exact KeepsTies.foldl State.endSession_ties (baysOf _) s

theorem allocationSetupBody_ties (m : Msg) (s : State) : KeepsTies s (allocationSetupBody m s).1 := by
  unfold allocationSetupBody
  split
  · split
    · exact settings_ties s _
    · exact .refl s
  · exact .refl s

theorem slotAssignBody_ties (m : Msg) (s : State) : KeepsTies s (slotAssignBody m s).1 := by
  unfold slotAssignBody
  split
  · simp only
    split
    · split
      · rw [done_fst]; exact State.setBay_ties (by rfl)
      · exact .refl s
    · exact .refl s
  · exact .refl s

theorem pinSetupBody_ties (pins : Byte) (m : Msg) (s : State) : KeepsTies s (pinSetupBody pins m s).1 := by
  unfold pinSetupBody
  split
  · split
    · exact s.setupPins_ties _ _ _
    · split
      · exact (pins_frame s _).ties rfl
      · exact .refl s
  · exact .refl s

theorem pinWriteBody_ties (m : Msg) (s : State) : KeepsTies s (pinWriteBody m s).1 := by
  unfold pinWriteBody
  split
  · exact (pins_frame s _).ties rfl
  · exact .refl s

/-- A rebuild begins on the D-port alone, whose queue has the place its answer will need (R9, R105). -/
theorem tagWindowBody_answers {s : State} (h : s.Tied) (hq : (s.port .d).queue.length ≤ 7) (p : Port) (m : Msg) :
    Answers s (tagWindowBody m s).1 p (tagWindowBody m s).2 := by
  unfold tagWindowBody
  split
  · split
    · exact ⟨⟨⟨h.links.port, fun _ => hq⟩, h.reach.reachable, h.reach.board, h.reach.cabinet⟩, le_rfl, fun r => by cases r⟩
    · exact ⟨h, le_rfl, fun _ => id⟩
  · exact ⟨h, le_rfl, fun _ => id⟩

/-- The answer to TAG WINDOW takes the place the rebuild kept (R10, R105). -/
theorem State.Tied.endRebuild {s : State} (h : s.Tied) {r : Rebuild} (hr : s.rebuild = some r) : (s.endRebuild r).Tied := by
  have room : (s.port .d).queue.length ≤ 7 := h.links.room (by rw [hr]; rfl)
  have ends : ∀ x, (s.withIndex x).Tied := fun x =>
    ⟨⟨h.links.port, fun e => by cases e⟩, h.reach.reachable, h.reach.board, h.reach.cabinet⟩
  cases hv : s.rebuiltIndex r.window with
  | some v => rw [State.endRebuild_taken hv]; exact (ends _).reply room (fun _ => rfl) _
  | none => rw [State.endRebuild_collision hv]; exact (ends _).reply room (fun _ => rfl) _

theorem ModeTakesEffect.queue {s t : State} {m : Mode} (c : ModeTakesEffect s t m) (p : Port) :
    (t.port p).queue = (s.port p).queue := by
  unfold ModeTakesEffect at c
  split at c
  · rw [c]; rfl
  · split at c
    · rcases c.ports p with e | ⟨_, e⟩ <;> rw [e]
    · split at c
      · obtain ⟨u, silence, starts⟩ := c
        rw [starts.frame.port (by simp)]
        exact congrArg LinkPort.queue (silence.frame.port (by simp) p)
      · obtain ⟨u, silence, swaps⟩ := c
        have kept := congrArg LinkPort.queue (silence.frame.port (by simp) p)
        rw [swaps]
        split
        · exact kept
        · exact kept

theorem ModeTakesEffect.rebuild {s t : State} {m : Mode} (c : ModeTakesEffect s t m) : t.rebuild = s.rebuild := by
  unfold ModeTakesEffect at c
  split at c
  · rw [c]
  · split at c
    · exact c.frame .rebuild (by simp)
    · split at c
      · obtain ⟨u, silence, starts⟩ := c
        exact (starts.frame .rebuild (by simp)).trans (silence.frame .rebuild (by simp))
      · obtain ⟨u, silence, swaps⟩ := c
        have kept : u.rebuild = s.rebuild := silence.frame .rebuild (by simp)
        rw [swaps]
        split
        · exact kept
        · exact kept

theorem modeRequestBody_answers {s : State} (h : s.Tied) (p : Port) (m : Msg) :
    Answers s (modeRequestBody m s).1 p (modeRequestBody m s).2 := by
  unfold modeRequestBody
  split
  · split
    · exact ⟨h, le_rfl, fun _ => id⟩
    · rename_i x _
      rw [done_fst]
      unfold State.requestMode
      split
      · refine KeepsTies.answers ?_ h p _
        exact .of_eq rfl rfl rfl rfl rfl rfl
      · have c := s.changeMode_spec x
        exact ⟨c.tied h, by rw [c.queue], fun _ hr => by rwa [← c.rebuild]⟩
  · exact ⟨h, le_rfl, fun _ => id⟩

/-! ### Reset and RESTART (R114, R161, R163) -/

/-- RESTART leaves every port SOUND, every bay reachable and no rebuild; the S-port keeps its queue (R114). -/
theorem State.Tied.restart {s : State} (h : s.Tied) (p : Port) (r : Option Msg) : Answers s s.restart p r := by
  have f := s.restartBlocks.handConditions_frame
  have port : ∀ q, s.restart.port q = (s.port q).restarted (q == .s) := fun q => by
    rw [State.restart, f.port (by simp), State.restartBlocks_port]
  have none : s.restart.rebuild = none := f .rebuild (by simp)
  have queue : ∀ q, (s.restart.port q).queue.length ≤ (s.port q).queue.length := fun q => by
    rw [port]
    simp only [LinkPort.restarted]
    split <;> simp
  refine ⟨⟨⟨fun q => ?_, fun e => ?_⟩, .of_attached (fun b => ?_) fun c => ?_⟩, queue p, fun _ e => ?_⟩
  · have ok := h.links.port q
    refine ⟨?_, ?_, ?_, ?_, (queue q).trans ok.queue, fun e => ?_, fun _ => ?_⟩
    all_goals rw [port] at *
    · exact Nat.zero_le _
    · rfl
    · exact Nat.succ_pos _
    · simp only [LinkPort.restarted]
      split
      · exact ok.buffers
      · exact Nat.zero_le _
    · cases e
    · rfl
  · rw [none] at e; cases e
  · rw [State.restart, f.bay (by simp), State.restartBlocks_bay]; rfl
  · rw [port]; simp [LinkPort.restarted]
  · rw [none] at e; cases e

theorem powerOn_tied (cabs baud : BitVec 2) (pins : Byte) : (State.powerOn cabs baud pins).Tied := by
  have port : ∀ p, (State.powerOn cabs baud pins).port p = LinkPort.powerOn := fun p => by simp [State.powerOn, State.port]
  refine ⟨⟨fun p => ?_, fun e => by cases e⟩, .of_attached (fun b => ?_) fun c => ?_⟩
  · rw [port]
    exact ⟨Nat.zero_le _, rfl, Nat.succ_pos _, Nat.zero_le _, Nat.zero_le _, fun e => (by cases e), fun _ => rfl⟩
  · rw [powerOn_bay]; rfl
  · rw [port]; simp [LinkPort.powerOn]

/-- What RESET cuts off was in flight; buffers and queues stay until the release (R163, log 12). -/
theorem State.Tied.assertReset {s : State} (h : s.Tied) : s.assertReset.Tied := by
  have port : ∀ p, s.assertReset.port p = (s.port p).cutOff := fun p => by simp [State.assertReset, State.port]
  have cabinet : ∀ c, s.assertReset.cabinet c = { s.cabinet c with silence := none } := fun c => by
    simp [State.assertReset, State.cabinet]
  refine ⟨⟨fun p => ?_, fun e => by cases e⟩, fun b => ?_, fun b hb => ⟨(h.reach.board b hb).1, ?_⟩, fun c hc => ?_⟩
  · have ok := h.links.port p
    rw [port]
    exact ⟨ok.errors, ok.health, ok.rejoin, ok.buffers, ok.queue,
      fun hd => ⟨(ok.silent hd).1, (ok.silent hd).2.1, rfl⟩, ok.attached⟩
  · rw [port]; exact h.reach.reachable b
  · simp [State.assertReset, State.pendingInc]
  · rw [port] at hc
    rw [cabinet]
    exact ⟨rfl, (h.reach.cabinet c hc).2⟩

/-! ### Every command -/

theorem State.Tied.ite {c : Prop} [Decidable c] {s t : State} (h : s.Tied) (ht : c → t.Tied) : State.Tied (if c then t else s) := by
  split
  · rename_i hc; exact ht hc
  · exact h

theorem Evaluates.ties {s t : State} {x : Clock} {n : Nat} (E : Evaluates s t x n) : KeepsTies s t := E.frame.ties rfl

theorem State.minuteTick_ties (s : State) : KeepsTies s s.minuteTick := (s.minuteTick_evaluates s.clock).ties

theorem exec_tied {c : Instr} {s t : State} (h : s.Tied) (e : exec c s = .next t) : t.Tied := by
  have inj : ∀ {u : State}, Host.Outcome.next (φ := Fault) (ρ := Refusal) u = .next t → u.Tied → t.Tied := by
    rintro u ⟨⟩ hu; exact hu
  cases c
  case messageComplete p => exact inj e (h.ite fun _ => h.completeMessage p)
  case headerFault p => exact inj e (h.ite fun _ => h.faultHeader p)
  case framingError p cause =>
    refine inj e (h.ite fun _ => ?_)
    simp only
    split
    · exact (h.settle p).faultHeader p
    · exact h.settle p
  case idleGapElapsed p =>
    refine inj e (h.ite fun _ => ?_)
    simp only
    split
    · exact (h.settle p).setRx p _
    · exact h.settle p
  case characterReceived p b => exact inj e (h.ite fun _ => (h.settle p).character p b)
  case silenceTimerExpiry c => exact inj e (h.ite fun _ => (s.detach_spec (.c c)).tied h)
  case endOfGap p =>
    refine inj e (h.ite fun hc => h.beginSending fun idle => ?_)
    simp [idle] at hc
  case messageSent p =>
    refine inj e (h.ite fun hc => (State.kick_ties _ p).tied (h.transmits (fun idle => ?_) le_rfl _))
    simp [LinkPort.isSending, idle] at hc
  case payloadCheck p =>
    refine inj e ?_
    split
    · rename_i ho
      obtain ⟨room, free, -⟩ := h.offers ho
      exact (h.take p).reply (by simpa using room) free _
    · exact h
  case unknownKind p =>
    refine inj e ?_
    split
    · rename_i ho
      obtain ⟨room, free, -⟩ := h.offers ho
      split
      · exact (h.take p).reply (by simpa using room) free _
      · exact h
    · exact h
  case keepalive p => exact inj e (h.handle_ties fun _ u => .refl u)
  case outlets p => exact inj e (h.handle_ties (onCabinet_keeps .refl outletsBody_ties))
  case plug p => exact inj e (h.handle_ties (onCabinet_keeps .refl plugBody_ties))
  case unplug p => exact inj e (h.handle_ties (onCabinet_keeps .refl unplugBody_ties))
  case meter p => exact inj e (h.handle_ties (onCabinet_keeps .refl meterBody_ties))
  case roundEnd p =>
    refine inj e (h.handle fun m u hu attached _ _ => KeepsTies.answers ?_ hu p _)
    cases p with
    | c n => exact roundEndBody_ties (m := m) attached
    | d | s => exact .refl u
  case applied p => exact inj e (h.handle_ties (onCabinet_keeps .refl appliedBody_ties))
  case outletFault p => exact inj e (h.handle_ties (onCabinet_keeps .refl outletFaultBody_ties))
  case rosterPut p => exact inj e (h.handle_ties rosterPutBody_ties)
  case rosterDrop p => exact inj e (h.handle_ties rosterDropBody_ties)
  case clockSet p => exact inj e (h.handle_ties clockSetBody_ties)
  case vanPolicy p => exact inj e (h.handle_ties vanPolicyBody_ties)
  case tagWindow p =>
    refine inj e (h.handle fun m u hu _ accepts room => ?_)
    have hd : p = .d := by simpa [Kind.accepts] using accepts
    exact tagWindowBody_answers hu (hd ▸ room) p m
  case indexRebuildEnd =>
    refine inj e ?_
    split
    · exact h
    · split
      · rename_i hr; exact h.endRebuild hr
      · exact h
  case read p pins => exact inj e (h.handle_ties (readBody_ties p pins))
  case replyLimit p => exact inj e (h.handle_ties (replyLimitBody_ties p))
  case noticeEnable p => exact inj e (h.handle_ties (noticeEnableBody_ties p))
  case noticeClear p => exact inj e (h.handle_ties (noticeClearBody_ties p))
  case siteLimit p => exact inj e (h.handle_ties siteLimitBody_ties)
  case loadReport p => exact inj e (h.handle_ties loadReportBody_ties)
  case rampLimit p => exact inj e (h.handle_ties rampLimitBody_ties)
  case modeRequest p => exact inj e (h.handle fun m u hu _ _ _ => modeRequestBody_answers hu p m)
  case restart p => exact inj e (h.handle fun m u hu _ _ _ => hu.restart p _)
  case releaseCabinet p => exact inj e (h.handle_ties releaseCabinetBody_ties)
  case allocationSetup p => exact inj e (h.handle_ties allocationSetupBody_ties)
  case slotAssign p => exact inj e (h.handle_ties slotAssignBody_ties)
  case pinSetup p pins => exact inj e (h.handle_ties (pinSetupBody_ties pins))
  case pinWrite p => exact inj e (h.handle_ties pinWriteBody_ties)
  case secondComplete =>
    refine inj e (KeepsTies.tied (.ite fun _ => ?_) h)
    simp only
    split
    · exact (clock_frame s _).ties rfl
    · exact ((clock_frame s _).ties rfl).trans (State.minuteTick_ties _)
  case minuteEvent =>
    refine inj e (KeepsTies.tied (.ite fun _ => ?_) h)
    split
    · exact ((clock_frame s _).ties rfl).trans (State.minuteTick_ties _)
    · exact .ite fun _ => ((clock_frame s _).ties rfl).trans (State.minuteTick_ties _)
  case minutePulse =>
    exact inj e (KeepsTies.tied (.ite fun _ => ((pins_frame s _).ties rfl).trans (State.minuteTick_ties _)) h)
  case shedAssertion =>
    exact inj e (KeepsTies.tied (.ite fun _ => ((pins_frame s _).ties rfl).trans (State.assertShed_ties _)) h)
  case shedRelease =>
    exact inj e (KeepsTies.tied (.ite fun _ => ((pins_frame s _).ties rfl).trans (State.releaseShed_ties _)) h)
  case roundTimerExpiry => exact inj e (KeepsTies.tied (.ite fun _ => s.roundStart_spec.ties) h)
  case passCompletion =>
    refine inj e ?_
    split
    · exact h
    · split
      · exact h.completePass _
      · exact h
  case slot k =>
    have passes : KeepsTies s (s.passSlot k) := .of_eq rfl rfl rfl rfl rfl rfl
    exact inj e (KeepsTies.tied (.ite fun _ => passes.trans (State.takeSlot_ties _ k)) h)
  case resetAsserted =>
    refine inj e ?_
    split
    · exact h
    · exact h.assertReset
  case resetRelease cabs baud pins =>
    refine inj e (h.ite fun _ => KeepsTies.tied ?_ (powerOn_tied cabs baud pins))
    exact .of_eq rfl rfl rfl rfl rfl rfl

/-- Settles O55: most commands move no more of a port than its transmitter; a port that becomes DETACHED takes its bays with
it, a reply finds the place that its handler waited for, and the answer of an index rebuild the one that was kept. -/
theorem keepsLinks : Obligations.KeepsLinks := by
  intro s t hL hR e
  have h : s.Tied := ⟨hL, hR⟩
  suffices t.Tied from ⟨this.links, this.reach⟩
  unfold step at e
  split at e
  · have taken : ∀ rest, KeepsTies s { s with pending := rest } := fun _ => .of_eq rfl rfl rfl rfl rfl rfl
    exact exec_tied ((taken _).tied h) e
  · cases e
    exact KeepsTies.tied (.ite fun _ => (clock_frame s _).ties rfl) h

end Sys2Proof.Machine
end

section
/-!
PROOFS. What the line brings a receiver, and the line form of a message (R99 to R102, R175): O7 and O8.
-/
namespace Sys2Proof.Machine

/-! ### The line events of a port that listens (R100) -/

theorem State.due_of_receiving {s : State} {p : Port} {bytes : List Byte} (hr : (s.port p).rx = .receiving bytes) :
    s.headerDue p = headerBad bytes ∧ s.messageDue p = (!headerBad bytes && fullLength bytes) := by
  simp only [State.headerDue, State.messageDue, hr, and_self]

theorem State.headerDue_eq_false {s : State} {p : Port} (h : ∀ bytes, (s.port p).rx = .receiving bytes → headerBad bytes = false) :
    s.headerDue p = false := by
  unfold State.headerDue
  split
  · rename_i hr; exact h _ hr
  · rfl

theorem State.messageDue_eq_false {s : State} {p : Port}
    (h : ∀ bytes, (s.port p).rx = .receiving bytes → headerBad bytes = true ∨ fullLength bytes = false) :
    s.messageDue p = false := by
  unfold State.messageDue
  split
  · rename_i hr
    rcases h _ hr with bad | short
    · rw [bad]; rfl
    · rw [short, Bool.and_false]
  · rfl

theorem exec_characterReceived {s : State} {p : Port} (hl : s.listens p = true) (b : Byte) :
    exec (.characterReceived p b) s = .next ((s.settle p).character p b) := by
  simp only [exec, execCharacterReceived, hl, if_true]

theorem exec_framingError {s : State} {p : Port} (hl : s.listens p = true) (cause : FramingCause) (hs : s.settle p = s) :
    exec (.framingError p cause) s = .next (if framingArises cause (s.port p).rx then s.frameError p else s) := by
  simp only [exec, execFramingError, hl, if_true, hs]

theorem exec_idleGapElapsed_hunt {s : State} {p : Port} {f : Bool} (hl : s.listens p = true) (hr : (s.port p).rx = .hunt f) :
    exec (.idleGapElapsed p) s = .next (s.setRx p .ready) := by
  simp only [exec, execIdleGapElapsed, hl, if_true, State.settle_hunt hr, hr]

theorem exec_idleGapElapsed_of_not_hunt {s : State} {p : Port} (hl : s.listens p = true) (hs : s.settle p = s)
    (hr : ∀ f, (s.port p).rx ≠ .hunt f) : exec (.idleGapElapsed p) s = .next s := by
  simp only [exec, execIdleGapElapsed, hl, if_true, hs]

theorem exec_headerFault {s : State} {p : Port} (hl : s.listens p = true) :
    exec (.headerFault p) s = .next (if s.headerDue p then s.faultHeader p else s) := by
  simp only [exec, execHeaderFault, hl, Bool.true_and]

theorem exec_messageComplete {s : State} {p : Port} (hl : s.listens p = true) :
    exec (.messageComplete p) s = .next (if s.messageDue p then s.completeMessage p else s) := by
  simp only [exec, execMessageComplete, hl, Bool.true_and]

/-- A line event of a port takes what is due on it first (log 6): it does after `t`, what was due being taken, what it does in
`s`. -/
theorem exec_of_settle {s t : State} {p : Port} {c : Instr} {f : Bool} (hl : s.listens p = true) (hs : s.settle p = t)
    (hr : (t.port p).rx = .hunt f) (ht : ∀ q, t.listens q = s.listens q)
    (hc : (∃ b, c = .characterReceived p b) ∨ c = .idleGapElapsed p ∨ (∃ cause, c = .framingError p cause)) :
    exec c s = exec c t := by
  have hl' : t.listens p = true := (ht p).trans hl
  rcases hc with ⟨b, rfl⟩ | rfl | ⟨cause, rfl⟩
  · rw [exec_characterReceived hl, exec_characterReceived hl', hs, State.settle_hunt hr]
  · simp only [exec, execIdleGapElapsed, hl, hl', hs, State.settle_hunt hr, if_true]
  · simp only [exec, execFramingError, hl, hl', hs, State.settle_hunt hr, if_true]

theorem State.settle_of_headerBad {s : State} {p : Port} {bytes : List Byte} (hr : (s.port p).rx = .receiving bytes)
    (hb : headerBad bytes = true) : s.settle p = s.faultHeader p := by
  rw [State.settle, (State.due_of_receiving hr).1, if_pos hb]

theorem State.settle_of_full {s : State} {p : Port} {bytes : List Byte} (hr : (s.port p).rx = .receiving bytes)
    (hb : headerBad bytes = false) (hf : fullLength bytes = true) : s.settle p = s.completeMessage p := by
  obtain ⟨header, message⟩ := State.due_of_receiving hr
  rw [State.settle, header, message, hb, hf]
  rfl

/-- The receiver of a cabinet port not strapped present does not listen (R99, R175). -/
theorem State.listens_of_absent {s : State} {n : Fin 4} (h : s.straps.cabs.toNat < n.val) : s.listens (.c n) = false := by
  have absent : s.present (.c n) = false := by simpa [State.present] using h
  rw [State.listens, absent, Bool.and_false]

/-- Settles O7, by the receiver's state: each line event is one branch of `State.character` or of `framingArises`, and what is
due is what `State.settle` takes before it. -/
theorem charactersOpenAndFillAMessage : Obligations.CharactersOpenAndFillAMessage := by
  refine ⟨fun s p hl => ⟨?_, ?_, ?_, ?_⟩, fun s p bytes c hl hr hc => ⟨?_, ?_⟩, fun s p hl => ?_, fun s n c absent hc => ?_⟩
  · intro f hr; exact exec_idleGapElapsed_hunt hl hr
  · intro b hr
    rw [exec_characterReceived hl, State.settle_ready hr, State.character, hr]; rfl
  · intro b bytes hr hb hf
    rw [exec_characterReceived hl, State.settle_receiving hr hb hf, State.character, hr]; rfl
  · intro b hr
    rw [exec_characterReceived hl, State.settle_hunt hr, State.character, hr]
  · intro hb
    obtain ⟨hunt, listens⟩ := s.faultHeader_receiver p
    refine ⟨s.faultHeader p, ?_, hunt, exec_of_settle hl (State.settle_of_headerBad hr hb) hunt listens hc⟩
    rw [exec_headerFault hl, (State.due_of_receiving hr).1, if_pos hb]
  · intro hb hf
    obtain ⟨hunt, listens⟩ := State.completeMessage_receiver hr hf
    refine ⟨s.completeMessage p, ?_, hunt, exec_of_settle hl (State.settle_of_full hr hb hf) hunt listens hc⟩
    rw [exec_messageComplete hl, (State.due_of_receiving hr).2, hb, hf]
    rfl
  · refine ⟨?_, fun cause h => ?_, fun h => ?_, fun h => ?_⟩
    · rintro (hr | ⟨bytes, hr, hb, hf⟩)
      · exact exec_idleGapElapsed_of_not_hunt hl (State.settle_ready hr) (by simp [hr])
      · exact exec_idleGapElapsed_of_not_hunt hl (State.settle_receiving hr hb hf) (by simp [hr])
    · rcases h with hr | ⟨hr, rfl⟩ | ⟨hr, hc⟩ | ⟨⟨bytes, hr, hb, hf⟩, rfl⟩
      · rw [exec_framingError hl cause (State.settle_hunt hr), hr]
        cases cause <;> rfl
      · rw [exec_framingError hl .gap (State.settle_hunt hr), hr]; rfl
      · rw [exec_framingError hl cause (State.settle_ready hr), hr]
        cases cause with
        | lowStop => exact absurd rfl hc
        | gap | afterComplete => rfl
      · rw [exec_framingError hl .afterComplete (State.settle_receiving hr hb hf), hr]; rfl
    · rw [exec_headerFault hl, State.headerDue_eq_false h]; rfl
    · rw [exec_messageComplete hl, State.messageDue_eq_false h]; rfl
  · have deaf := State.listens_of_absent absent
    rcases hc with ⟨b, rfl⟩ | rfl | ⟨cause, rfl⟩ | rfl | rfl
    · simp [exec, execCharacterReceived, deaf]
    · simp [exec, execIdleGapElapsed, deaf]
    · simp [exec, execFramingError, deaf]
    · simp [exec, execHeaderFault, deaf]
    · simp [exec, execMessageComplete, deaf]

/-! ### The line form of a message (R101, R102) -/

theorem Msg.line_of_empty {m : Msg} (h : m.payload = []) : m.line = [m.kind, m.unit, 0, crc8 [m.kind, m.unit, 0]] := by
  simp [Msg.line, h]

theorem Msg.line_of_payload {m : Msg} (h : m.payload ≠ []) :
    m.line = m.kind :: m.unit :: BitVec.ofNat 8 m.payload.length ::
      crc8 [m.kind, m.unit, BitVec.ofNat 8 m.payload.length] :: (m.payload ++ byte2 (crc16 m.payload).toNat) := by
  simp [Msg.line, h]

theorem byte2_length (n : Nat) : (byte2 n).length = 2 := rfl

theorem Msg.length_toNat {m : Msg} (h : m.payload.length ≤ 60) :
    (BitVec.ofNat 8 m.payload.length).toNat = m.payload.length := by
  simp only [BitVec.toNat_ofNat]; omega

theorem Msg.length_ne_zero {m : Msg} (h : m.payload.length ≤ 60) (hp : m.payload ≠ []) :
    ¬ BitVec.ofNat 8 m.payload.length = 0 := fun e => by
  have := Msg.length_toNat h
  rw [e] at this
  exact hp (List.length_eq_zero_iff.mp this.symm)

/-- The header of a message the part sends passes (R101), however much of the rest has come. -/
theorem headerBad_line_take {m : Msg} (h : m.payload.length ≤ 60) (n : Nat) : headerBad (m.line.take n) = false := by
  rcases n with _ | _ | _ | _ | n
  · rfl
  · rfl
  · rfl
  · rfl
  · have short := Msg.length_toNat h
    by_cases hp : m.payload = []
    · simp [Msg.line_of_empty hp, headerBad]
    · simp only [Msg.line_of_payload hp, List.take_succ_cons, headerBad, short]
      simpa using h

/-- The full length of a message is its whole line, and no less (R100). -/
theorem fullLength_line_take {m : Msg} (h : m.payload.length ≤ 60) (n : Nat) :
    fullLength (m.line.take n) = decide (m.line.length ≤ n) := by
  by_cases hp : m.payload = []
  · rw [Msg.line_of_empty hp]
    rcases n with _ | _ | _ | _ | n <;> simp [fullLength]
  · have short := Msg.length_toNat h
    have ne := Msg.length_ne_zero h hp
    rw [Msg.line_of_payload hp]
    rcases n with _ | _ | _ | _ | n
    · simp [fullLength]
    · simp [fullLength]
    · simp [fullLength]
    · simp [fullLength]
    · rw [Bool.eq_iff_iff]
      simp only [fullLength, List.take_succ_cons, if_neg ne, short, List.length_take, List.length_append, byte2_length,
        List.length_cons, beq_iff_eq, decide_eq_true_eq]
      omega

theorem headerBad_line {m : Msg} (h : m.payload.length ≤ 60) : headerBad m.line = false := by
  simpa using headerBad_line_take h m.line.length

theorem fullLength_line {m : Msg} (h : m.payload.length ≤ 60) : fullLength m.line = true := by
  simpa using fullLength_line_take h m.line.length

theorem parseMessage_line {m : Msg} (h : m.payload.length ≤ 60) : parseMessage m.line = some (m, true) := by
  obtain ⟨kind, unit, payload⟩ := m
  by_cases hp : payload = []
  · subst hp; simp [Msg.line, parseMessage]
  · have short : (BitVec.ofNat 8 payload.length).toNat = payload.length := Msg.length_toNat h
    rw [Msg.line_of_payload hp]
    simp only [parseMessage, short, List.take_left, List.drop_left, BEq.rfl, Bool.or_true]

/-- Settles O8: of the line of a message, every part passes the header check, and the whole alone has its full length. -/
theorem lineRoundTrip : Obligations.LineRoundTrip := by
  intro m h
  refine ⟨headerBad_line h, fullLength_line h, parseMessage_line h, fun n hn => ⟨headerBad_line_take h n, ?_⟩⟩
  rw [fullLength_line_take h n]
  simpa using hn

end Sys2Proof.Machine
end

section
/-!
PROOFS. What an accepted and a rejected message leave of a port that stays attached (R101 to R104, R116, R120): O9, O10 and O11.
-/
namespace Sys2Proof.Machine

/-! ### An item handed on (R104) -/

/-- Item `x` is handed on at port `p`: it joins a free buffer, or is dropped with INBOUND OVERRUN. -/
structure HandsOn (s t : State) (p : Port) (x : Item) : Prop where
  port : t.port p = { s.port p with
    buffers := if (s.port p).buffers.length < 2 then (s.port p).buffers ++ [x] else (s.port p).buffers }
  ports : ∀ q, q ≠ p → t.port q = s.port q
  dset : t.dset = if p = .d ∧ 2 ≤ (s.port p).buffers.length then s.dset.raise DFlag.inboundOverrun.bit else s.dset
  sset : t.sset = if p ≠ .d ∧ 2 ≤ (s.port p).buffers.length then s.sset.raise SFlag.inboundOverrun.bit else s.sset
  frame : SameBut [.ports, .dset, .sset] s t

theorem State.handOn_spec {s : State} {p : Port} (hd : (s.port p).health ≠ .detached) (x : Item) :
    HandsOn s (s.handOn p x) p x := by
  by_cases room : (s.port p).buffers.length < 2
  · have e : s.handOn p x = s.setPort p { s.port p with buffers := (s.port p).buffers ++ [x] } := by
      simp only [State.handOn, if_neg hd, if_pos room]
    have free := Nat.not_le.mpr room
    rw [e]
    exact ⟨by simp [room], fun q hq => by simp [hq], by simp [free], by simp [free], (s.setPort_frame p _).mono (by simp)⟩
  · have e : s.handOn p x = s.overrun p := by simp only [State.handOn, if_neg hd, if_neg room]
    have full := Nat.not_lt.mp room
    rw [e, State.overrun]
    by_cases hp : p = .d
    · rw [if_pos hp]
      exact ⟨by simp [room], fun q _ => by simp, by simp [hp ▸ full, hp, State.raiseD], by simp [hp],
        (s.raiseD_frame _).mono (by simp)⟩
    · rw [if_neg hp]
      exact ⟨by simp [room], fun q _ => by simp, by simp [hp], by simp [full, hp, State.raiseS],
        (s.raiseS_frame _).mono (by simp)⟩

theorem HandsOn.linkTroubleStands {s t : State} {p : Port} {x : Item} (h : HandsOn s t p x) :
    t.linkTroubleStands = s.linkTroubleStands := by
  have health : ∀ q, (t.port q).health = (s.port q).health := fun q => by
    by_cases e : q = p
    · rw [e, h.port]
    · rw [h.ports q e]
  simp only [State.linkTroubleStands, health]

/-! ### A rejection that is counted (R116) -/

/-- A rejection is counted on port `p`, its receiver being left as `rx`, and nothing else comes about. -/
structure CountsEight (s t : State) (p : Port) (rx : Receiver) : Prop where
  port : t.port p = { s.port p with rx := rx, errors := (s.port p).errors + 8, health := healthOf ((s.port p).errors + 8) }
  ports : ∀ q, q ≠ p → t.port q = s.port q
  trouble : t.sset = s.sset.setCond SFlag.linkTrouble.bit t.linkTroubleStands
  frame : SameBut [.ports, .sset] s t

theorem State.reject_counts {s : State} {p : Port} (hd : (s.port p).health ≠ .detached) (he : (s.port p).errors + 8 < 255)
    (rx : Receiver) : CountsEight s ((s.setRx p rx).reject p) p rx := by
  have hp : (s.setRx p rx).port p = { s.port p with rx := rx } := by simp [State.setRx_port]
  have R := State.reject_spec (s := s.setRx p rx) (p := p) (by rwa [hp]) (by rwa [hp])
  refine ⟨by rw [R.port, hp], fun q hq => by rw [R.ports q hq, State.setRx_port, if_neg hq], R.trouble, ?_⟩
  exact (s.setRx_frame p rx).comp R.frame (by simp) (by simp)

/-- A rejection other than that of a whole message is a bad header or a framing error, and is that alone. -/
theorem Rejection.exec_eq_of_line {s : State} {p : Port} {c : Instr} (h : Rejection s p c (.hunt false))
    (hl : s.listens p = true) : exec c s = .next ((s.setRx p (.hunt false)).reject p) := by
  cases h with
  | header bytes hr hb => rw [exec_headerFault hl, (State.due_of_receiving hr).1, if_pos hb]; rfl
  | framing bytes cause hr hb hf hc =>
    rw [exec_framingError hl cause (State.settle_receiving hr hb hf), hr]
    rcases hc with rfl | rfl <;> rfl
  | opening hr => rw [exec_framingError hl .lowStop (State.settle_ready hr), hr]; rfl
  | after cause hr hc =>
    rw [exec_framingError hl cause (State.settle_hunt hr), hr]
    rcases hc with rfl | rfl <;> rfl
  | character b hr => rw [exec_characterReceived hl, State.settle_hunt hr, State.character, hr]; rfl

/-- Settles O9: each of its causes is a rejection that leaves the receiver in HUNT, and the count stays below 255. -/
theorem rejectionCountsEight : Obligations.RejectionCountsEight := by
  intro s p hl hd he hit
  have counted : ∀ c, Rejection s p c (.hunt false) → ∃ t, exec c s = .next t ∧ hit t := fun c h => by
    have C := State.reject_counts hd he (.hunt false)
    exact ⟨_, h.exec_eq_of_line hl, C.port, C.ports, C.trouble, C.frame⟩
  refine ⟨fun k u l h hr bad => counted _ (.header _ hr ?_), fun bytes cause hr hb hf hc => counted _ (.framing _ _ hr hb hf hc),
    fun hr => counted _ (.opening hr), fun cause hr hc => counted _ (.after _ hr hc), fun hr b => counted _ (.character b hr)⟩
  rcases bad with check | long
  · simp [headerBad, check]
  · simp [headerBad, long]

/-! ### A complete message (R102, R103) -/

/-- A whole message with a good header is delivered as what it parses to. -/
theorem exec_messageComplete_due {s : State} {p : Port} {bytes : List Byte} {m : Msg} {good : Bool} (hl : s.listens p = true)
    (hr : (s.port p).rx = .receiving bytes) (hb : headerBad bytes = false) (hf : fullLength bytes = true)
    (hm : parseMessage bytes = some (m, good)) :
    exec (.messageComplete p) s = .next ((s.setRx p (.hunt true)).deliver p m good) := by
  rw [exec_messageComplete hl, (State.due_of_receiving hr).2, hb, hf]
  simp only [State.completeMessage, hr, hm]
  rfl

theorem exec_messageComplete_line {s : State} {p : Port} {m : Msg} (hl : s.listens p = true)
    (hr : (s.port p).rx = .receiving m.line) (h : m.payload.length ≤ 60) :
    exec (.messageComplete p) s = .next ((s.setRx p (.hunt true)).deliver p m true) :=
  exec_messageComplete_due hl hr (headerBad_line h) (fullLength_line h) (parseMessage_line h)

theorem requestCode_eq (k : Byte) : requestCode k = (Kind.ofCode k).any Kind.isRequest := by
  unfold requestCode
  cases Kind.ofCode k <;> rfl

/-- Settles O10: the acceptance lowers the count, so that the port stays attached and hands the message on. -/
theorem goodMessageIsAccepted : Obligations.GoodMessageIsAccepted := by
  intro s p m hl hd he hm hr
  set u := s.setRx p (.hunt true) with hu
  have hp : u.port p = { s.port p with rx := .hunt true } := by simp [hu, State.setRx_port]
  have A := u.accept_spec p
  have port : (u.accept p).port p = { s.port p with
      rx := .hunt true, errors := (s.port p).errors - 1, health := healthOf ((s.port p).errors - 1) } := by rw [A.port, hp]
  have attached : ((u.accept p).port p).health ≠ .detached := fun e => by
    rw [port] at e
    have := healthOf_detached.mp e
    omega
  have H := State.handOn_spec attached (.message m)
  have delivered : u.deliver p m true = (u.accept p).handOn p (.message m) := by
    simp only [State.deliver, hp, hd, if_true, if_false]
  have rx := s.setRx_frame p (.hunt true)
  refine ⟨_, exec_messageComplete_line hl hr hm, ?_⟩
  rw [← hu, delivered]
  refine ⟨by rw [H.port, port], fun q hq => ?_, fun c => ?_, ?_, ?_, ?_⟩
  · rw [H.ports q hq, A.ports q hq, hu, State.setRx_port, if_neg hq]
  · rw [H.frame.cabinet (by simp), A.cabinets]; rfl
  · rw [H.dset, port, show (u.accept p).dset = s.dset from A.frame .dset (by simp)]
  · rw [H.sset, port, A.trouble, ← H.linkTroubleStands]; rfl
  · exact (rx.comp A.frame (l := [.ports, .cabinets, .sset]) (by simp) (by simp)).comp H.frame (by simp) (by simp)

/-- Settles O11: the rejection is counted, and a request's entry is then handed on as any item is. -/
theorem payloadFailureIsRejected : Obligations.PayloadFailureIsRejected := by
  intro s p k u l h c1 c0 payload hl hd he hr hc hn h1 h60 hx entry
  obtain ⟨hb, hf, hm⟩ := damaged_due hc hn h1 h60 hx
  have C := State.reject_counts hd he (.hunt true)
  set v := (s.setRx p (.hunt true)).reject p with hv
  have attached : (v.port p).health ≠ .detached := fun e => by
    rw [C.port] at e
    have := healthOf_detached.mp e
    omega
  have health : ((s.setRx p (.hunt true)).port p).health ≠ .detached := by rwa [State.setRx_port, if_pos rfl]
  have dset : v.dset = s.dset := C.frame .dset (by simp)
  have code : requestCode k = entry := requestCode_eq k
  refine ⟨_, exec_messageComplete_due hl hr hb hf hm, ?_⟩
  cases request : entry with
  | false =>
    have delivered : (s.setRx p (.hunt true)).deliver p { kind := k, unit := u, payload := payload } false = v := by
      simp [State.deliver, code, request, hv]
    rw [delivered]
    refine ⟨by simpa using C.port, C.ports, ?_, by simpa using C.trouble, C.frame.mono (by simp)⟩
    simpa using dset
  | true =>
    have H := State.handOn_spec attached (.failed k u)
    have delivered : (s.setRx p (.hunt true)).deliver p { kind := k, unit := u, payload := payload } false =
        v.handOn p (.failed k u) := by
      simp [State.deliver, code, request, health, hv]
    rw [delivered]
    refine ⟨by simp [H.port, C.port], fun q hq => (H.ports q hq).trans (C.ports q hq), ?_, ?_, ?_⟩
    · rw [H.dset, C.port, dset]; simp
    · rw [H.sset, C.port, C.trouble, ← H.linkTroubleStands]; simp
    · exact C.frame.comp H.frame (by simp) (by simp)

end Sys2Proof.Machine
end

section
/-!
PROOFS. Ports that detach, stay DETACHED or rejoin (R103, R116, R118 to R122): O12 and O13.
-/
namespace Sys2Proof.Machine

/-! ### A receiver written before the outcome is taken -/

theorem Detaches.of_setRx {s t : State} {p : Port} {rx x : Receiver} (d : Detaches (s.setRx p x) t p rx) :
    Detaches s t p rx where
  port := d.port
  ports q hq := by rw [d.ports q hq, State.setRx_port, if_neg hq]
  bays := d.bays
  board := d.board
  increases := d.increases
  cabinets := d.cabinets
  trouble := d.trouble
  frame := (s.setRx_frame p x).comp d.frame (by simp) (by simp)

theorem Rejoins.of_setRx {s t : State} {p : Port} {rx x : Receiver} (r : Rejoins (s.setRx p x) t p rx) :
    Rejoins s t p rx where
  port := by rw [r.port, State.setRx_port, if_pos rfl]
  ports q hq := by rw [r.ports q hq, State.setRx_port, if_neg hq]
  bays := r.bays
  cabinets := r.cabinets
  trouble := r.trouble
  frame := (s.setRx_frame p x).comp r.frame (by simp) (by simp)

theorem State.setRx_health (s : State) (p : Port) (x : Receiver) : ((s.setRx p x).port p).health = (s.port p).health := by
  rw [State.setRx_port, if_pos rfl]

theorem State.setRx_errors (s : State) (p : Port) (x : Receiver) : ((s.setRx p x).port p).errors = (s.port p).errors := by
  rw [State.setRx_port, if_pos rfl]

theorem State.detach_setRx (s : State) (p : Port) (rx : Receiver) : Detaches s ((s.setRx p rx).detach p) p rx := by
  have d := (s.setRx p rx).detach_spec p
  rw [State.setRx_port, if_pos rfl] at d
  exact d.of_setRx

theorem State.rejoin_setRx (s : State) (p : Port) (rx : Receiver) : Rejoins s ((s.setRx p rx).rejoin p) p rx := by
  have r := (s.setRx p rx).rejoin_spec p
  rw [State.setRx_port, if_pos rfl] at r
  exact r.of_setRx

/-- Settles O12: silence detaches the port as it is, a rejection at the boundary once the receiver has been written. -/
theorem detachTakesEffect : Obligations.DetachTakesEffect := by
  refine ⟨fun s c n reset silence => ⟨s.detach (.c c), ?_, s.detach_spec (.c c)⟩, fun s p c rx hl hd he h => ?_⟩
  · simp [exec, execSilenceTimerExpiry, reset, silence]
  · have detaches : (s.setRx p rx).reject p = (s.setRx p rx).detach p :=
      State.reject_detaches (by rwa [State.setRx_health]) (by rwa [State.setRx_errors])
    exact ⟨_, h.exec_eq hl (.inr he), detaches ▸ s.detach_setRx p rx⟩

/-! ### Outcomes on a DETACHED port (R121) -/

theorem State.deliver_detached {s : State} {p : Port} (hd : (s.port p).health = .detached) (m : Msg) :
    s.deliver p m true = s.acceptDetached p m.kind := by simp only [State.deliver, if_true, hd]

theorem State.acceptDetached_other {s : State} (p : Port) {k : Byte} (h : k ≠ Kind.keepalive.code) :
    s.acceptDetached p k = s := by simp only [State.acceptDetached, if_neg h]

theorem State.acceptDetached_keepalive (s : State) (p : Port) : s.acceptDetached p Kind.keepalive.code =
    if 16 ≤ (s.port p).rejoin + 1 then s.rejoin p else s.setPort p { s.port p with rejoin := (s.port p).rejoin + 1 } := by
  simp only [State.acceptDetached, if_true]

/-- Settles O13: the kind and the rejoin count decide what an accepted message brings; a rejection writes the count alone. -/
theorem detachedPortCountsKeepalives : Obligations.DetachedPortCountsKeepalives := by
  intro s p hl hd
  have port : ∀ rx, (s.setRx p rx).port p = { s.port p with rx := rx } := fun rx => by rw [State.setRx_port, if_pos rfl]
  have gone : ∀ rx, ((s.setRx p rx).port p).health = .detached := fun rx => by rwa [State.setRx_health]
  refine ⟨fun m hm hr => ?_, fun c rx h => ?_⟩
  · rw [exec_messageComplete_line hl hr hm, State.deliver_detached (gone _)]
    refine ⟨fun other => ?_, fun keepalive below => ?_, fun keepalive last => ?_⟩
    · rw [State.acceptDetached_other p other]; rfl
    · rw [keepalive, State.acceptDetached_keepalive, port, if_neg (by simpa using below), State.setRx,
        State.setPort_setPort]
    · rw [keepalive, State.acceptDetached_keepalive, port, if_pos (by simpa using last)]
      exact ⟨_, rfl, s.rejoin_setRx p _⟩
  · rw [h.exec_eq hl (.inl hd), State.reject_detached (gone rx), port, State.setRx, State.setPort_setPort]

end Sys2Proof.Machine
end

section
/-!
PROOFS. The transmitter's choice at the end of GAP, and after a message (R110, R140): O14 and O15.
-/
namespace Sys2Proof.Machine

theorem baysOf_sorted (c : Fin 4) : (baysOf c).Pairwise (· < ·) := by revert c; decide

theorem State.firstEntry_of_lowest {s : State} {b : Fin 32} {v : Nat × Seq} (h : s.board b = some v)
    (lowest : ∀ a, a < b → cabinetOf a = cabinetOf b → s.board a = none) : s.firstEntry (cabinetOf b) = some (b, v) := by
  obtain ⟨before, after, split⟩ := List.append_of_mem (mem_baysOf.mpr (rfl : cabinetOf b = cabinetOf b))
  rw [State.firstEntry, List.findSome?_eq_some_iff]
  refine ⟨before, b, after, split, by rw [h]; rfl, fun a ha => ?_⟩
  have sorted := split ▸ baysOf_sorted (cabinetOf b)
  have below : a < b := (List.pairwise_append.mp sorted).2.2 a ha b (List.mem_cons_self ..)
  have same : cabinetOf a = cabinetOf b := mem_baysOf.mp (split ▸ List.mem_append_left _ ha)
  rw [lowest a below same]
  rfl

theorem State.firstEntry_none {s : State} {n : Fin 4} (h : ∀ b, cabinetOf b = n → s.board b = none) :
    s.firstEntry n = none := by
  rw [State.firstEntry, List.findSome?_eq_none_iff]
  intro b hb
  rw [h b (mem_baysOf.mp hb)]
  rfl

theorem exec_endOfGap {s : State} {p : Port} (reset : s.resetLow = false) (gap : (s.port p).tx = .gap) :
    exec (.endOfGap p) s = .next (s.beginSending p) := by
  simp [exec, execEndOfGap, reset, gap]

theorem State.beginSending_setpoint {s : State} {n : Fin 4} {b : Fin 32} {v : Nat × Seq} (h : s.firstEntry n = some (b, v)) :
    s.beginSending (.c n) =
      (s.setBoard b none).setPort (.c n) { s.port (.c n) with tx := .sending (setpointMsg (outletOf b) v) } := by
  simp only [State.beginSending, h]
  rfl

theorem State.beginSending_reply {s : State} {p : Port} (h : ∀ n, p = .c n → s.firstEntry n = none) :
    s.beginSending p = s.sendReply p := by
  cases p with
  | c n => simp only [State.beginSending, h n rfl]
  | d | s => rfl

/-- Settles O14: the bays of a cabinet are searched in outlet order, and with no entry the transmitter turns to its queue. -/
theorem endOfGapChoosesTheMessage : Obligations.EndOfGapChoosesTheMessage := by
  intro s p reset gap
  rw [exec_endOfGap reset gap]
  refine ⟨?_, fun clear => ?_⟩
  · rintro n b v q rfl rfl entry lowest
    rw [State.beginSending_setpoint (State.firstEntry_of_lowest entry lowest)]
    rfl
  · rw [State.beginSending_reply fun n e => State.firstEntry_none fun b => clear n b e]
    cases queue : (s.port p).queue <;> simp only [State.sendReply, queue]

/-- The transmitter has something to send (R110): a reply, or a board entry of its cabinet. -/
theorem State.hasToSend_iff {s : State} {p : Port} : s.hasToSend p = true ↔
    (s.port p).queue ≠ [] ∨ ∃ n b, p = .c n ∧ cabinetOf b = n ∧ (s.board b).isSome = true := by
  cases p with
  | c n => simp [State.hasToSend, mem_baysOf, or_iff_not_imp_left, eq_comm (a := n)]
  | d | s => simp [State.hasToSend]

theorem exec_messageSent {s : State} {p : Port} {m : Msg} (reset : s.resetLow = false) (sending : (s.port p).tx = .sending m) :
    exec (.messageSent p) s = .next ((s.setPort p { s.port p with tx := .idle }).kick p) := by
  simp [exec, execMessageSent, reset, LinkPort.isSending, sending]

/-- Settles O15: the transmitter made IDLE is kicked, which looks at the queue and the board alone. -/
theorem messageSentGoesOnOrRests : Obligations.MessageSentGoesOnOrRests := by
  intro s p m reset sending attached
  set u := s.setPort p { s.port p with tx := .idle } with hu
  have port : u.port p = { s.port p with tx := .idle } := by simp [hu]
  have more : u.hasToSend p = true ↔
      (s.port p).queue ≠ [] ∨ ∃ n b, p = .c n ∧ cabinetOf b = n ∧ (s.board b).isSome = true := by
    rw [State.hasToSend_iff, port]; rfl
  rw [exec_messageSent reset sending, ← hu, State.kick_eq]
  simp only [port, attached, more, true_and, ne_eq, not_false_eq_true]
  split
  · rw [hu, State.setPort_setPort]
  · rfl

end Sys2Proof.Machine
end

section
/-!
PROOFS. What the handler does before the rule of a kind (R105, R106, R108): O16, O17 and O18.
-/
namespace Sys2Proof.Machine

/-! ### Items that no rule of a kind takes (R106, checks 1 to 3) -/

theorem exec_payloadCheck {s : State} {p : Port} {k u : Byte} (h : s.Offers p (.failed k u)) :
    exec (.payloadCheck p) s = .next ((s.take p).sends p (answerTo k u Flag.payloadCheck.result [])) := by
  obtain ⟨-, -, -, attached⟩ := id h
  simp only [exec, execPayloadCheck, State.offered_of_Offers h]
  rw [State.reply_eq_sends _ (by rwa [State.take_health])]

theorem exec_unknownKind {s : State} {p : Port} {m r : Msg} (h : s.Offers p (.message m)) (hr : unknownAnswer m = some r) :
    exec (.unknownKind p) s = .next ((s.take p).sends p r) := by
  obtain ⟨-, -, -, attached⟩ := id h
  simp only [exec, execUnknownKind, State.offered_of_Offers h, hr]
  rw [State.reply_eq_sends _ (by rwa [State.take_health])]

theorem Kind.ofCode_eq_none {b : Byte} (h : ∀ k, k ∈ Kind.all → k.code ≠ b) : Kind.ofCode b = none := by
  rw [Kind.ofCode, List.find?_eq_none]
  simpa using h

/-- Settles O16: a code the table lacks names no kind, and the three outbound codes name theirs. -/
theorem failedItemsAreAnswered : Obligations.FailedItemsAreAnswered := by
  refine ⟨fun s p k u h => exec_payloadCheck h,
    fun s p m h => ⟨fun absent => exec_unknownKind h ?_, fun outbound => exec_unknownKind h ?_⟩⟩
  · rw [unknownAnswer, Kind.ofCode_eq_none absent]; rfl
  · have wrongPort : ∀ k : Kind, Kind.ofCode m.kind = some k → k.outbound = true →
        unknownAnswer m = some { kind := 0x80, unit := m.unit, payload := [m.kind, 0x00, 0x02] } := fun k named out => by
      rw [unknownAnswer, named]; simp only [out]; rfl
    rcases outbound with e | e | e
    · exact wrongPort .answer (e ▸ rfl) rfl
    · exact wrongPort .data (e ▸ rfl) rfl
    · exact wrongPort .setpoint (e ▸ rfl) rfl

/-! ### Every handler command (R105, R106) -/

/-- A handler command is its port's handler taking a message of its kind, with some rule of the kind. -/
theorem exec_handled {c : Instr} {p : Port} {k : Kind} (h : handled c = some (p, k)) :
    ∃ body, ∀ s, exec c s = .next (s.handle k p body) := by
  cases c
  all_goals cases h
  all_goals exact ⟨_, fun _ => rfl⟩

theorem Kind.check_port {k : Kind} {p : Port} (m : Msg) (h : k.accepts p = false) : k.check p m = k.fail .wrongPort := by
  simp [Kind.check, h]

theorem Kind.check_length {k : Kind} {p : Port} {m : Msg} (hp : k.accepts p = true)
    (h : k.lengthOk m.payload.length = false) : k.check p m = k.fail .badLength := by
  simp [Kind.check, hp, h]

theorem Kind.check_unit {k : Kind} {p : Port} {m : Msg} (hp : k.accepts p = true) (hl : k.lengthOk m.payload.length = true)
    (h : k.unitOk m.unit = false) : k.check p m = k.fail .badUnit := by
  simp [Kind.check, hp, hl, h]

/-- Settles O17: every handler command makes the checks of its kind first, in their order, and each fails alike. -/
theorem handlerChecksComeFirst : Obligations.HandlerChecksComeFirst := by
  intro c p k s m hc ht failing
  obtain ⟨body, run⟩ := exec_handled hc
  have fails : ∀ f, k.check p m = k.fail f → failing f := fun f check =>
    (run s).trans (congrArg _ (State.handle_fail body ht check))
  exact ⟨fun port => fails _ (Kind.check_port m port), fun port length => fails _ (Kind.check_length port length),
    fun port length unit => fails _ (Kind.check_unit port length unit)⟩

/-- Settles O18: a handler that is not READY offers nothing, and what it offers is the oldest item. -/
theorem handlerWaits : Obligations.HandlerWaits := by
  intro c p k s hc
  obtain ⟨body, run⟩ := exec_handled hc
  refine ⟨fun waits => ?_, fun other => ?_⟩
  · rw [run, State.handle_waits body fun m offer => ?_]
    rw [State.offered_of_not_ready waits] at offer
    cases offer
  · rw [run, State.handle_waits body fun m offer => ?_]
    obtain ⟨-, -, oldest⟩ := State.offered_eq_some.mp offer
    exact other m oldest

end Sys2Proof.Machine
end

section
/-!
PROOFS. The site requests MODE REQUEST and SLOT ASSIGN (R146, R149, R150, R157 to R160): O38 and O41.
-/
namespace Sys2Proof.Machine

/-! ### MODE REQUEST (R146) -/

theorem modeOfCode_code {b : Byte} {x : Mode} (h : x.code = b.toNat) : modeOfCode b = some x := by
  rw [modeOfCode, ← h]
  cases x <;> rfl

theorem modeOfCode_eq_none {b : Byte} (h : 2 < b.toNat) : modeOfCode b = none := by
  unfold modeOfCode
  split
  · omega
  · omega
  · omega
  · rfl

section
variable {m : Msg} {b : Byte} (s : State)

theorem modeRequestBody_refuses (hl : m.payload = [b]) (h : 2 < b.toNat) : modeRequestBody m s = refuse m s .badUnit := by
  simp only [modeRequestBody, hl, modeOfCode_eq_none h]

theorem modeRequestBody_eq {x : Mode} (hl : m.payload = [b]) (h : x.code = b.toNat) :
    modeRequestBody m s = done m (s.requestMode x) false := by
  simp only [modeRequestBody, hl, modeOfCode_code h]

end

theorem State.requestMode_of_pass {s : State} (x : Mode) (h : s.alloc.snap.isSome = true) :
    s.requestMode x = { s with pendingMode := some x } := if_pos h

theorem State.requestMode_of_no_pass {s : State} (x : Mode) (h : s.alloc.snap = none) :
    s.requestMode x = s.changeMode x := if_neg (by rw [h]; exact Bool.false_ne_true)

/-- A change of mode detaches no port: an entry to CONFIGURE makes every port SOUND (R126), and the others write none. -/
theorem ModeTakesEffect.attached {s t : State} {m : Mode} (c : ModeTakesEffect s t m) {p : Port}
    (h : (s.port p).health ≠ .detached) : (t.port p).health ≠ .detached := by
  unfold ModeTakesEffect at c
  split at c
  · rw [c]; exact h
  · split at c
    · rw [(c.ports p).health]; exact nofun
    · split at c
      · obtain ⟨u, silence, starts⟩ := c
        rw [starts.frame.port (by simp)]
        exact silence.frame.port (by simp) p ▸ h
      · obtain ⟨u, silence, swaps⟩ := c
        have kept : (u.port p).health ≠ .detached := silence.frame.port (by simp) p ▸ h
        rw [swaps]
        split <;> exact kept

/-- Settles O38: the code picks the mode, the pass in flight picks whether it is held, and a mode that takes effect leaves the
S-port attached, so that the answer is queued. -/
theorem modeRequestChangesTheMode : Obligations.ModeRequestChangesTheMode := by
  intro s m b ht hu hl
  have passes : Kind.modeRequest.Passes .s m := ⟨rfl, by rw [hl]; rfl, by rw [hu]; rfl⟩
  refine ⟨fun above => ?_, fun x code => ?_⟩
  · exact congrArg Host.Outcome.next (State.handle_refuse ht passes (modeRequestBody_refuses _ hl above))
  · have body := modeRequestBody_eq (s.take .s) hl code
    refine ⟨fun pass => ?_, fun idle => ?_⟩
    · rw [State.requestMode_of_pass (s := s.take .s) x pass] at body
      exact congrArg Host.Outcome.next (State.handle_ok ht passes body ht.attached)
    · rw [State.requestMode_of_no_pass (s := s.take .s) x idle] at body
      have change := (s.take .s).changeMode_spec x
      exact ⟨_, change, congrArg Host.Outcome.next (State.handle_ok ht passes body (change.attached ht.attached))⟩

/-! ### SLOT ASSIGN (R150) -/

theorem unit_mod_thirtyTwo (b : Fin 32) : (⟨(BitVec.ofNat 8 b.val).toNat % 32, by omega⟩ : Fin 32) = b := by
  revert b; decide

theorem slotAssignBody_eq {s : State} {m : Msg} {b : Fin 32} {k : Byte} (hu : m.unit = BitVec.ofNat 8 b.val)
    (hl : m.payload = [k]) : slotAssignBody m s =
      if s.mode = .configure then
        if h : k.toNat < 4 then done m (s.setBay b { s.bay b with slot := ⟨k.toNat, h⟩ }) false
        else refuse m s .badUnit
      else refuse m s .wrongMode := by
  simp only [slotAssignBody, hl, hu, unit_mod_thirtyTwo]

/-- Settles O41: the mode is looked at first, then the slot; a bay that is written leaves the ports alone. -/
theorem slotAssignSetsTheSlot : Obligations.SlotAssignSetsTheSlot := by
  intro s m b k ht hu hl
  have passes : Kind.slotAssign.Passes .s m :=
    ⟨rfl, by rw [hl]; rfl, hu ▸ (by decide : ∀ b : Fin 32, Kind.slotAssign.unitOk (BitVec.ofNat 8 b.val) = true) b⟩
  have body := slotAssignBody_eq (s := s.take .s) hu hl
  rw [State.take_bay, show (s.take .s).mode = s.mode from s.take_frame .s .mode (by simp)] at body
  refine ⟨fun mode => ?_, fun mode above => ?_, fun h mode => ?_⟩
  · rw [if_neg mode] at body
    exact congrArg Host.Outcome.next (State.handle_refuse ht passes body)
  · rw [if_pos mode, dif_neg (by omega)] at body
    exact congrArg Host.Outcome.next (State.handle_refuse ht passes body)
  · rw [if_pos mode, dif_pos h] at body
    exact congrArg Host.Outcome.next (State.handle_ok ht passes body ht.attached)

end Sys2Proof.Machine
end

section
/-!
PROOFS. RESET (R163): what is lost while it is low, and what the part holds right after the release: O6 and O54.
-/
namespace Sys2Proof.Machine

/-! ### RESET_ASSERTED: what is lost, what is kept -/

theorem State.assertReset_port (s : State) (p : Port) : s.assertReset.port p = (s.port p).cutOff := by
  simp [State.assertReset, State.port]

theorem State.assertReset_cabinet (s : State) (c : Fin 4) :
    s.assertReset.cabinet c = { s.cabinet c with silence := none } := by
  simp [State.assertReset, State.cabinet]

theorem State.assertReset_marked (s : State) (b : Fin 32) : s.assertReset.marked b = false := by
  simp [State.assertReset, State.marked]

theorem State.assertReset_pendingInc (s : State) (b : Fin 32) : s.assertReset.pendingInc b = none := by
  simp [State.assertReset, State.pendingInc]

/-- Whatever is not in flight stays until the release (log 12). -/
theorem State.assertReset_frame (s : State) :
    SameBut [.reset, .pendingMode, .rebuild, .timer, .pass, .marks, .early, .increases, .slotTimes, .ports, .cabinets]
      s s.assertReset := by
  intro k hk
  cases k with
  | queue | straps | mode | bays | roster | index | clock | env | order | board | budget | settings | dset | sset
  | pins => rfl
  | _ => simp at hk

/-! ### What the part drives while RESET is low -/

section
variable {s : State} (low : s.resetLow = true)
include low

theorem State.alertD_of_resetLow : s.alertD = false := by rw [State.alertD, low]; rfl

theorem State.alertS_of_resetLow : s.alertS = false := by rw [State.alertS, low]; rfl

theorem State.pinDrive_of_resetLow (n : Fin 8) : s.pinDrive n = none := if_pos low

end

/-- Settles O6. -/
theorem resetAssertedLosesWhatIsInFlight : Obligations.ResetAssertedLosesWhatIsInFlight := by
  intro s high
  have falls : exec .resetAsserted s = .next s.assertReset := congrArg Host.Outcome.next (if_neg (by simp [high]))
  have low : s.assertReset.resetLow = true := rfl
  exact ⟨s.assertReset, falls, low, rfl, rfl, rfl, rfl, s.assertReset_marked, rfl, s.assertReset_pendingInc, rfl,
    s.assertReset_port, s.assertReset_cabinet, State.alertD_of_resetLow low, State.alertS_of_resetLow low,
    State.pinDrive_of_resetLow low, s.assertReset_frame⟩

/-! ### The part right after a reset release, at any straps and pin levels -/

section
variable (cabs baud : BitVec 2) (pins : Byte)

theorem powerOn_port (p : Port) : (State.powerOn cabs baud pins).port p = LinkPort.powerOn := by
  simp [State.powerOn, State.port]

theorem powerOn_cabinet (c : Fin 4) : (State.powerOn cabs baud pins).cabinet c = Cabinet.powerOn := by
  simp [State.powerOn, State.cabinet]

/-- No bay is in session and no entry PLUGGED. -/
theorem powerOn_roster : (State.powerOn cabs baud pins).RosterOk := fun b k => by
  rw [namedSlot_none_of_session (by rw [powerOn_bay]; rfl), namedBay_none (powerOn_entry cabs baud pins k)]
  simp

/-- Roster and Tag Index are empty, at window start 0. -/
theorem powerOn_index : (State.powerOn cabs baud pins).IndexOk where
  held k e h := by rw [powerOn_entry] at h; cases h
  only i k h := by rw [powerOn_indexAt] at h; cases h
  window := Nat.zero_le _
  rebuild r h := by cases h

theorem powerOn_entries : (State.powerOn cabs baud pins).EntriesOk := fun k e h => by
  rw [powerOn_entry] at h; cases h

theorem powerOn_modeOk : (State.powerOn cabs baud pins).ModeOk := .of_rest rfl rfl rfl rfl rfl rfl

/-- At power-on the total is 0.0 kW, every port SOUND and every cabinet fresh: of the held conditions, LOAD STALE alone
stands (R169). -/
theorem powerOn_stands :
    (State.powerOn cabs baud pins).overdueStands = false ∧ (State.powerOn cabs baud pins).atRiskStands = false ∧
      (State.powerOn cabs baud pins).exceededStands = false ∧ (State.powerOn cabs baud pins).linkTroubleStands = false ∧
      (State.powerOn cabs baud pins).staleCabinetStands = false ∧
      (State.powerOn cabs baud pins).unconfirmedStands = false := by
  refine ⟨?_, ?_, ?_, ?_, ?_, ?_⟩
  · simp [State.overdueStands, powerOn_entry]
  · simp [State.atRiskStands, powerOn_bay, Bay.powerOn, Bay.session]
  · have total : (State.powerOn cabs baud pins).total = 0 := by
      simp [State.total, powerOn_bay, Bay.powerOn, Bay.allowance]
    simp [State.exceededStands, total]
  · simp [State.linkTroubleStands, powerOn_port, LinkPort.powerOn]
  · simp [State.staleCabinetStands, powerOn_cabinet, Cabinet.powerOn]
  · simp [State.unconfirmedStands, powerOn_bay, Bay.powerOn]

theorem powerOn_condsD : (State.powerOn cabs baud pins).condsD = 0 := by
  obtain ⟨overdue, atRisk, -⟩ := powerOn_stands cabs baud pins
  rw [State.condsD, overdue, atRisk]
  rfl

theorem powerOn_condsS : (State.powerOn cabs baud pins).condsS = SFlag.loadStale.bit := by
  obtain ⟨-, -, exceeded, trouble, stale, unconfirmed⟩ := powerOn_stands cabs baud pins
  have shed : (State.powerOn cabs baud pins).env.shed = false := rfl
  have loadStale : (State.powerOn cabs baud pins).env.stale = true := rfl
  rw [State.condsS, exceeded, shed, trouble, stale, loadStale, unconfirmed]
  decide

/-- LOAD STALE stands and is pending, no other flag is, and nothing is enabled (R169). -/
theorem powerOn_notices : (State.powerOn cabs baud pins).NoticesOk where
  dset := (⟨by decide, by decide, by decide⟩ : NoticeSet.Ok { pending := 0, enable := 0, cond := 0 } dsetBits)
  sset := (⟨by decide, by decide, by decide⟩ : NoticeSet.Ok { pending := 0x0010, enable := 0, cond := 0x0010 } ssetBits)
  condD := (powerOn_condsD cabs baud pins).symm
  condS := (powerOn_condsS cabs baud pins).symm

end

/-- Settles O54: the invariants hold of every reset release, so of the one that `State.reset` stands for. -/
theorem resetMeetsTheInvariants : Obligations.ResetMeetsTheInvariants := by
  unfold Obligations.ResetMeetsTheInvariants State.reset
  obtain ⟨links, reach⟩ := powerOn_tied Config.resetCabs Config.resetBaud Config.resetPins
  obtain ⟨bays, pass⟩ := powerOn_sound Config.resetCabs Config.resetBaud Config.resetPins
  obtain ⟨clock, envelope, settings⟩ := powerOn_controls Config.resetCabs Config.resetBaud Config.resetPins
  exact ⟨links, reach, bays, pass, powerOn_roster _ _ _, powerOn_index _ _ _, powerOn_entries _ _ _, clock, envelope,
    settings, powerOn_modeOk _ _ _, powerOn_notices _ _ _⟩

end Sys2Proof.Machine
end

section
/-!
SUPPORT. The notice sets bit by bit (R164 to R167), and the conditions the held flags indicate: which block each is read from,
and what is owed to the Notice Unit between a block's change and the condition's evaluation.
-/
namespace Sys2Proof.Machine

/-! ### Notice sets bit by bit -/

/-- Every bit of `a` is one of `b`. -/
theorem and_not_eq_zero_iff {a b : Mask} : a &&& ~~~b = 0 ↔ ∀ i, a.getLsbD i = true → b.getLsbD i = true := by
  constructor
  · intro h i ha
    have bit : (a &&& ~~~b).getLsbD i = false := by rw [h]; exact BitVec.getLsbD_zero
    have hi := BitVec.lt_of_getLsbD ha
    simpa [ha, hi] using bit
  · intro h
    refine BitVec.eq_of_getLsbD_eq fun i hi => ?_
    cases ha : a.getLsbD i with
    | false => simp [ha]
    | true => simp [ha, hi, h i ha]

theorem NoticeSet.ok_iff {n : NoticeSet} {bits : Mask} : n.Ok bits ↔
    (∀ i, n.pending.getLsbD i = true → bits.getLsbD i = true) ∧ (∀ i, n.enable.getLsbD i = true → bits.getLsbD i = true) ∧
      ∀ i, n.cond.getLsbD i = true → n.pending.getLsbD i = true := by
  simp only [← and_not_eq_zero_iff]
  exact ⟨fun h => ⟨h.pending, h.enable, h.held⟩, fun ⟨p, e, c⟩ => ⟨p, e, c⟩⟩

/-- The word whose only bit is `k`, read at place `i`. -/
theorem getLsbD_place {k : Nat} (hk : k < 16) (i : Nat) : (BitVec.twoPow 16 k).getLsbD i = decide (i = k) := by
  rw [BitVec.getLsbD_twoPow, decide_eq_true hk, Bool.true_and]
  exact decide_eq_decide.mpr eq_comm

/-- An indicator follows its condition, and the others stay (R166). -/
theorem NoticeSet.setCond_shows (n : NoticeSet) {k : Nat} (hk : k < 16) (stands : Bool) (i : Nat) :
    (n.setCond (BitVec.twoPow 16 k) stands).cond.getLsbD i = if i = k then stands else n.cond.getLsbD i := by
  have place := getLsbD_place hk i
  rw [NoticeSet.setCond_cond]
  cases stands with
  | true =>
    by_cases e : i = k
    · simp [e, hk]
    · simp [place, e]
  | false =>
    by_cases e : i = k
    · simp [e, hk]
    · cases h : n.cond.getLsbD i with
      | false => simp [h, e]
      | true => simp [h, e, BitVec.lt_of_getLsbD h]

/-- A held flag that begins to stand becomes pending, and one that stood was pending (R166). -/
theorem NoticeSet.Ok.setCond {n : NoticeSet} {bits : Mask} (h : n.Ok bits) {k : Nat} (hk : bits.getLsbD k = true)
    (stands : Bool) : (n.setCond (BitVec.twoPow 16 k) stands).Ok bits := by
  have small : k < 16 := BitVec.lt_of_getLsbD hk
  obtain ⟨pending, enable, held⟩ := NoticeSet.ok_iff.mp h
  have shows := n.setCond_shows small stands
  have pend : ∀ i, (n.setCond (BitVec.twoPow 16 k) stands).pending.getLsbD i =
      (n.pending.getLsbD i || (stands && decide (i = k))) := fun i => by
    cases stands with
    | false => simp [NoticeSet.setCond]
    | true =>
      simp only [NoticeSet.setCond, if_true, BitVec.and_twoPow]
      cases hc : n.cond.getLsbD k with
      | false => simp [getLsbD_place small]
      | true =>
        have nonzero : ¬ BitVec.twoPow 16 k = 0 := fun e => by
          have bit := getLsbD_place small k
          rw [e] at bit
          simp at bit
        rw [if_pos rfl, if_neg nonzero]
        by_cases e : i = k
        · simp [e, held k hc]
        · simp [e]
  refine NoticeSet.ok_iff.mpr ⟨fun i hi => ?_, ?_, fun i hi => ?_⟩
  · rw [pend] at hi
    by_cases e : i = k
    · rw [e]; exact hk
    · exact pending i (by simpa [e] using hi)
  · unfold NoticeSet.setCond
    split <;> exact enable
  · rw [shows] at hi
    rw [pend]
    by_cases e : i = k
    · have begun : stands = true := by simpa [e] using hi
      simp [e, begun]
    · simp [held i (by simpa [e] using hi)]

/-- An event flag of the set becomes pending (R165). -/
theorem NoticeSet.Ok.raise {n : NoticeSet} {bits bit : Mask} (h : n.Ok bits) (hb : bit &&& ~~~bits = 0) :
    (n.raise bit).Ok bits := by
  obtain ⟨pending, enable, held⟩ := NoticeSet.ok_iff.mp h
  refine NoticeSet.ok_iff.mpr ⟨fun i hi => ?_, enable, fun i hi => ?_⟩
  · rw [NoticeSet.raise, BitVec.getLsbD_or, Bool.or_eq_true] at hi
    exact hi.elim (pending i) (and_not_eq_zero_iff.mp hb i)
  · rw [NoticeSet.raise, BitVec.getLsbD_or, held i hi, Bool.true_or]

/-- The enables name flags of the set, and nothing else changes (R167). -/
theorem NoticeSet.Ok.setEnable {n : NoticeSet} {bits : Mask} (h : n.Ok bits) (mask : Mask) : (n.setEnable mask bits).Ok bits := by
  refine ⟨h.pending, and_not_eq_zero_iff.mpr fun i hi => ?_, h.held⟩
  rw [NoticeSet.setEnable, BitVec.getLsbD_and, Bool.and_eq_true] at hi
  exact hi.2

/-- A flag stays pending after a clear unless it is named and its condition does not stand (R167). -/
theorem NoticeSet.clear_pending (n : NoticeSet) (mask : Mask) (i : Nat) : (n.clear mask).pending.getLsbD i =
    (n.pending.getLsbD i && !(mask.getLsbD i && !n.cond.getLsbD i)) := by
  by_cases hi : i < 16
  · simp [NoticeSet.clear, hi]
  · simp [NoticeSet.clear, BitVec.getLsbD_of_ge _ _ (Nat.le_of_not_lt hi)]

theorem NoticeSet.Ok.clear {n : NoticeSet} {bits : Mask} (h : n.Ok bits) (mask : Mask) : (n.clear mask).Ok bits := by
  obtain ⟨pending, enable, held⟩ := NoticeSet.ok_iff.mp h
  refine NoticeSet.ok_iff.mpr ⟨fun i hi => ?_, enable, fun i hi => ?_⟩
  · rw [NoticeSet.clear_pending, Bool.and_eq_true] at hi
    exact pending i hi.1
  · have stands : n.cond.getLsbD i = true := hi
    rw [NoticeSet.clear_pending, held i stands, stands]
    simp

/-! ### Held flags and their conditions -/

/-- The held flags of both sets (R164). -/
inductive Held where
  | overdue | atRisk | exceeded | shed | linkTrouble | staleCabinet | loadStale | unconfirmed
deriving DecidableEq

/-- The condition stands, as its block has it (R33, R48, R49, R73, R80, R124). -/
def Held.stands : Held → State → Bool
  | .overdue, s => s.overdueStands
  | .atRisk, s => s.atRiskStands
  | .exceeded, s => s.exceededStands
  | .shed, s => s.env.shed
  | .linkTrouble, s => s.linkTroubleStands
  | .staleCabinet, s => s.staleCabinetStands
  | .loadStale, s => s.env.stale
  | .unconfirmed, s => s.unconfirmedStands

/-- The condition is handed to the Notice Unit. -/
def State.hand (s : State) : Held → State
  | .overdue => s.evalOverdue
  | .atRisk => s.evalAtRisk
  | .exceeded => s.evalExceeded
  | .shed => s.evalShed
  | .linkTrouble => s.evalLinkTrouble
  | .staleCabinet => s.evalStaleCabinet
  | .loadStale => s.evalLoadStale
  | .unconfirmed => s.evalUnconfirmed

/-- The flag is one of the D-set. -/
def Held.inD : Held → Bool
  | .overdue | .atRisk => true
  | _ => false

/-- Place of the flag's bit in its set (R164). -/
def Held.place : Held → Nat
  | .overdue | .exceeded => 0
  | .atRisk | .shed => 1
  | .linkTrouble => 2
  | .staleCabinet => 3
  | .loadStale => 4
  | .unconfirmed => 5

/-- The flag's bit. -/
def Held.bit : Held → Mask
  | .overdue => DFlag.overdue.bit
  | .atRisk => DFlag.atRisk.bit
  | .exceeded => SFlag.envelopeExceeded.bit
  | .shed => SFlag.shedActive.bit
  | .linkTrouble => SFlag.linkTrouble.bit
  | .staleCabinet => SFlag.staleCabinet.bit
  | .loadStale => SFlag.loadStale.bit
  | .unconfirmed => SFlag.unconfirmedSetpoint.bit

theorem Held.bit_eq (h : Held) : h.bit = BitVec.twoPow 16 h.place := by cases h <;> decide

/-- The set the flag is in. -/
def Held.set (h : Held) (s : State) : NoticeSet := if h.inD then s.dset else s.sset

/-- The condition indicator of the flag. -/
def Held.shown (h : Held) (s : State) : Bool := (h.set s).cond.getLsbD h.place

theorem Held.eq_of_place {h g : Held} (hd : h.inD = g.inD) (hp : h.place = g.place) : h = g := by
  revert hd hp
  cases h <;> cases g <;> simp [Held.inD, Held.place]

theorem Held.place_lt (h : Held) : h.place < 16 := by cases h <;> decide

/-- What a condition handed over writes: the indicator and flag of its own set. -/
theorem State.hand_set (s : State) (h : Held) :
    (s.hand h).dset = (if h.inD then s.dset.setCond h.bit (h.stands s) else s.dset) ∧
    (s.hand h).sset = (if h.inD then s.sset else s.sset.setCond h.bit (h.stands s)) := by
  cases h <;> simp [State.hand, Held.inD, Held.bit, Held.stands]

theorem State.hand_frame (s : State) (h : Held) : SameBut [.dset, .sset] s (s.hand h) := by
  cases h with
  | overdue => exact s.evalOverdue_frame.mono (by simp)
  | atRisk => exact s.evalAtRisk_frame.mono (by simp)
  | exceeded => exact s.evalExceeded_frame.mono (by simp)
  | shed => exact s.evalShed_frame.mono (by simp)
  | linkTrouble => exact s.evalLinkTrouble_frame.mono (by simp)
  | staleCabinet => exact s.evalStaleCabinet_frame.mono (by simp)
  | loadStale => exact s.evalLoadStale_frame.mono (by simp)
  | unconfirmed => exact s.evalUnconfirmed_frame.mono (by simp)

/-! ### What each condition is read from -/

/-- The entry is PLUGGED and overdue (R33). -/
def Entry.isOverdue (e : Entry) : Bool :=
  match e.state with
  | .plugged _ o => o
  | _ => false

/-- The bay is in session, at risk in its last pass results (R73). -/
def Bay.isAtRisk (x : Bay) : Bool := (x.session.bind (·.last)).any (·.atRisk)

theorem State.overdueStands_eq (s : State) : s.overdueStands = allSlots.any fun k => (s.entry k).any Entry.isOverdue := by
  unfold State.overdueStands
  congr 1
  funext k
  cases s.entry k <;> rfl

theorem State.atRiskStands_eq (s : State) : s.atRiskStands = allBays.any fun b => (s.bay b).isAtRisk := by
  unfold State.atRiskStands
  congr 1
  funext b
  unfold Bay.isAtRisk
  cases (s.bay b).session with
  | none => rfl
  | some x => cases h : x.last <;> simp [h]

/-- What the condition is read from is in `t` as it is in `s`. -/
def Held.Same (s t : State) : Held → Prop
  | .overdue => ∀ k, (t.entry k).any Entry.isOverdue = (s.entry k).any Entry.isOverdue
  | .atRisk => ∀ b, (t.bay b).isAtRisk = (s.bay b).isAtRisk
  | .exceeded => (∀ b, (t.bay b).allowance = (s.bay b).allowance) ∧ t.env.inForce = s.env.inForce
  | .shed => t.env.shed = s.env.shed
  | .linkTrouble => ∀ p, (t.port p).health = (s.port p).health
  | .staleCabinet => t.straps = s.straps ∧ ∀ c, (t.cabinet c).staleRounds = (s.cabinet c).staleRounds
  | .loadStale => t.env.stale = s.env.stale
  | .unconfirmed => ∀ b, (t.bay b).unconfirmed = (s.bay b).unconfirmed

theorem Held.Same.stands_eq {s t : State} {h : Held} (same : h.Same s t) : h.stands t = h.stands s := by
  cases h with
  | overdue =>
    have entries : ∀ k, (t.entry k).any Entry.isOverdue = (s.entry k).any Entry.isOverdue := same
    simp only [Held.stands, State.overdueStands_eq, entries]
  | atRisk =>
    have bays : ∀ b, (t.bay b).isAtRisk = (s.bay b).isAtRisk := same
    simp only [Held.stands, State.atRiskStands_eq, bays]
  | exceeded =>
    obtain ⟨bays, env⟩ := same
    have total : t.total = s.total := by simp only [State.total, bays]
    simp only [Held.stands, State.exceededStands, total, env]
  | shed | loadStale => exact same
  | linkTrouble =>
    have ports : ∀ p, (t.port p).health = (s.port p).health := same
    simp only [Held.stands, State.linkTroubleStands, ports]
  | staleCabinet =>
    obtain ⟨straps, cabinets⟩ := same
    simp only [Held.stands, State.staleCabinetStands, State.present, straps, cabinets]
  | unconfirmed =>
    have bays : ∀ b, (t.bay b).unconfirmed = (s.bay b).unconfirmed := same
    simp only [Held.stands, State.unconfirmedStands, bays]

/-- The conditions that are read from a block. -/
def Block.feeds : Block → List Held
  | .bays => [.atRisk, .exceeded, .unconfirmed]
  | .roster => [.overdue]
  | .env => [.exceeded, .shed, .loadStale]
  | .ports => [.linkTrouble]
  | .straps | .cabinets => [.staleCabinet]
  | _ => []

theorem SameBut.heldSame {l : List Block} {s t : State} (f : SameBut l s t) {h : Held} (hl : ∀ k ∈ l, h ∉ k.feeds) :
    h.Same s t := by
  have off : ∀ {k : Block}, h ∈ k.feeds → k ∉ l := fun fed hk => hl _ hk fed
  cases h with
  | overdue => exact fun k => by rw [f.entry (off (by decide))]
  | atRisk => exact fun b => by rw [f.bay (off (by decide))]
  | exceeded =>
    have env : t.env = s.env := f .env (off (by decide))
    exact ⟨fun b => by rw [f.bay (off (by decide))], by rw [env]⟩
  | shed => exact congrArg Envelope.shed (f .env (off (by decide)) : t.env = s.env)
  | linkTrouble => exact fun p => by rw [f.port (off (by decide))]
  | staleCabinet => exact ⟨f .straps (off (by decide)), fun c => by rw [f.cabinet (off (by decide))]⟩
  | loadStale => exact congrArg Envelope.stale (f .env (off (by decide)) : t.env = s.env)
  | unconfirmed => exact fun b => by rw [f.bay (off (by decide))]

/-! ### What a write disturbs -/

/-- From `s` to `t` the notice sets stay, and so does what the conditions outside `l` are read from. -/
structure Disturbs (l : List Held) (s t : State) : Prop where
  dset : t.dset = s.dset
  sset : t.sset = s.sset
  same : ∀ h, h ∉ l → h.Same s t

/-- The block is no notice set, and what is read from it is among `l`. -/
def Block.within (l : List Held) (k : Block) : Bool := k != .dset && k != .sset && k.feeds.all l.contains

/-- A write to the blocks of `m` disturbs what is read from them. -/
theorem SameBut.disturbs {m : List Block} (l : List Held) {s t : State} (f : SameBut m s t)
    (hl : m.all (Block.within l) = true) : Disturbs l s t := by
  simp only [List.all_eq_true, Block.within, Bool.and_eq_true, bne_iff_ne, List.contains_iff_mem] at hl
  refine ⟨f .dset fun hk => ?_, f .sset fun hk => ?_, fun h hh => f.heldSame fun k hk fed => hh ?_⟩
  · obtain ⟨⟨notDset, -⟩, -⟩ := hl _ hk
    exact notDset rfl
  · obtain ⟨⟨-, notSset⟩, -⟩ := hl _ hk
    exact notSset rfl
  · obtain ⟨-, fedNamed⟩ := hl k hk
    exact fedNamed h fed

/-- A condition whose readings did not change after all is not disturbed. -/
theorem Disturbs.spare {h : Held} {l : List Held} {s t : State} (d : Disturbs (h :: l) s t) (same : h.Same s t) :
    Disturbs l s t :=
  ⟨d.dset, d.sset, fun g hg => by
    by_cases e : g = h
    · rw [e]; exact same
    · exact d.same g (by simp [e, hg])⟩

/-! ### What is owed to the Notice Unit -/

/-- The notice sets are as R164 and R166 leave them, and every indicator tells its condition but for those of `l`, which are
still to be handed over. -/
structure State.Owes (l : List Held) (s : State) : Prop where
  dset : s.dset.Ok dsetBits
  sset : s.sset.Ok ssetBits
  onlyD : ∀ i, 2 ≤ i → s.dset.cond.getLsbD i = false
  onlyS : ∀ i, 6 ≤ i → s.sset.cond.getLsbD i = false
  shown : ∀ h, h ∉ l → h.shown s = h.stands s

theorem getLsbD_flag (c : Bool) (b : Mask) (i : Nat) : (if c then b else 0).getLsbD i = (c && b.getLsbD i) := by
  cases c <;> simp

theorem State.condsD_getLsbD (s : State) (i : Nat) : s.condsD.getLsbD i =
    (s.overdueStands && decide (i = 0) || s.atRiskStands && decide (i = 1)) := by
  have overdue : DFlag.overdue.bit = BitVec.twoPow 16 0 := Held.bit_eq .overdue
  have atRisk : DFlag.atRisk.bit = BitVec.twoPow 16 1 := Held.bit_eq .atRisk
  simp only [State.condsD, BitVec.getLsbD_or, getLsbD_flag, overdue, atRisk, getLsbD_place (show 0 < 16 by decide),
    getLsbD_place (show 1 < 16 by decide)]

theorem State.condsS_getLsbD (s : State) (i : Nat) : s.condsS.getLsbD i =
    (s.exceededStands && decide (i = 0) || s.env.shed && decide (i = 1) || s.linkTroubleStands && decide (i = 2) ||
      s.staleCabinetStands && decide (i = 3) || s.env.stale && decide (i = 4) || s.unconfirmedStands && decide (i = 5)) := by
  have exceeded : SFlag.envelopeExceeded.bit = BitVec.twoPow 16 0 := Held.bit_eq .exceeded
  have shed : SFlag.shedActive.bit = BitVec.twoPow 16 1 := Held.bit_eq .shed
  have trouble : SFlag.linkTrouble.bit = BitVec.twoPow 16 2 := Held.bit_eq .linkTrouble
  have stale : SFlag.staleCabinet.bit = BitVec.twoPow 16 3 := Held.bit_eq .staleCabinet
  have load : SFlag.loadStale.bit = BitVec.twoPow 16 4 := Held.bit_eq .loadStale
  have unconfirmed : SFlag.unconfirmedSetpoint.bit = BitVec.twoPow 16 5 := Held.bit_eq .unconfirmed
  simp only [State.condsS, BitVec.getLsbD_or, getLsbD_flag, exceeded, shed, trouble, stale, load, unconfirmed,
    getLsbD_place (show 0 < 16 by decide), getLsbD_place (show 1 < 16 by decide), getLsbD_place (show 2 < 16 by decide),
    getLsbD_place (show 3 < 16 by decide), getLsbD_place (show 4 < 16 by decide), getLsbD_place (show 5 < 16 by decide)]

/-- The indicator of a flag, as the blocks' conditions stand. -/
theorem Held.conds_getLsbD (h : Held) (s : State) :
    (if h.inD then s.condsD else s.condsS).getLsbD h.place = h.stands s := by
  cases h <;> simp only [Held.inD, Held.place, if_true, Bool.false_eq_true, if_false, State.condsD_getLsbD,
    State.condsS_getLsbD] <;> simp [Held.stands]

/-- The notices are in order exactly where nothing is owed. -/
theorem State.noticesOk_iff_owes {s : State} : s.NoticesOk ↔ s.Owes [] := by
  constructor
  · intro h
    refine ⟨h.dset, h.sset, fun i hi => ?_, fun i hi => ?_, fun g _ => ?_⟩
    · rw [h.condD, State.condsD_getLsbD]
      simp [show i ≠ 0 by omega, show i ≠ 1 by omega]
    · rw [h.condS, State.condsS_getLsbD]
      simp [show i ≠ 0 by omega, show i ≠ 1 by omega, show i ≠ 2 by omega, show i ≠ 3 by omega, show i ≠ 4 by omega,
        show i ≠ 5 by omega]
    · rw [← g.conds_getLsbD s]
      unfold Held.shown Held.set
      split
      · rw [h.condD]
      · rw [h.condS]
  · intro h
    have shown : ∀ g : Held, g.shown s = g.stands s := fun g => h.shown g (by simp)
    refine ⟨h.dset, h.sset, BitVec.eq_of_getLsbD_eq fun i _ => ?_, BitVec.eq_of_getLsbD_eq fun i _ => ?_⟩
    · rw [State.condsD_getLsbD]
      match i with
      | 0 => exact (shown .overdue).trans (by simp [Held.stands])
      | 1 => exact (shown .atRisk).trans (by simp [Held.stands])
      | i + 2 => simpa using h.onlyD (i + 2) (by omega)
    · rw [State.condsS_getLsbD]
      match i with
      | 0 => exact (shown .exceeded).trans (by simp [Held.stands])
      | 1 => exact (shown .shed).trans (by simp [Held.stands])
      | 2 => exact (shown .linkTrouble).trans (by simp [Held.stands])
      | 3 => exact (shown .staleCabinet).trans (by simp [Held.stands])
      | 4 => exact (shown .loadStale).trans (by simp [Held.stands])
      | 5 => exact (shown .unconfirmed).trans (by simp [Held.stands])
      | i + 6 => simpa using h.onlyS (i + 6) (by omega)

theorem State.Owes.mono {l m : List Held} {s : State} (h : s.Owes l) (hl : ∀ g ∈ l, g ∈ m) : s.Owes m :=
  ⟨h.dset, h.sset, h.onlyD, h.onlyS, fun g hg => h.shown g fun hm => hg (hl g hm)⟩

/-- A write leaves owed what it disturbs. -/
theorem Disturbs.owes {l m : List Held} {s t : State} (d : Disturbs m s t) (h : s.Owes l) : t.Owes (m ++ l) := by
  refine ⟨d.dset ▸ h.dset, d.sset ▸ h.sset, d.dset ▸ h.onlyD, d.sset ▸ h.onlyS, fun g hg => ?_⟩
  obtain ⟨hm, hl⟩ : g ∉ m ∧ g ∉ l := by simpa using hg
  have shown : g.shown t = g.shown s := by simp only [Held.shown, Held.set, d.dset, d.sset]
  rw [shown, (d.same g hm).stands_eq]
  exact h.shown g hl

/-- Its place names a flag of the set it is in. -/
theorem Held.place_named (h : Held) : (if h.inD then dsetBits else ssetBits).getLsbD h.place = true := by
  cases h <;> decide

theorem Held.place_lt_size (h : Held) : if h.inD then h.place < 2 else h.place < 6 := by cases h <;> decide

/-- A condition handed over is owed no more. -/
theorem State.Owes.hand {h : Held} {l : List Held} {s : State} (o : s.Owes (h :: l)) : (s.hand h).Owes l := by
  obtain ⟨dset, sset⟩ := s.hand_set h
  have stands : ∀ g : Held, g.stands (s.hand h) = g.stands s := fun g =>
    ((s.hand_frame h).heldSame (by simp [Block.feeds])).stands_eq
  have named := h.place_named
  have low := h.place_lt_size
  rw [h.bit_eq] at dset sset
  refine ⟨?_, ?_, fun i hi => ?_, fun i hi => ?_, fun g hg => ?_⟩
  · rw [dset]
    split
    · rename_i d; rw [if_pos d] at named; exact o.dset.setCond named _
    · exact o.dset
  · rw [sset]
    split
    · exact o.sset
    · rename_i d; rw [if_neg d] at named; exact o.sset.setCond named _
  · rw [dset]
    split
    · rename_i d
      rw [if_pos d] at low
      rw [NoticeSet.setCond_shows _ h.place_lt, if_neg (by omega)]
      exact o.onlyD i hi
    · exact o.onlyD i hi
  · rw [sset]
    split
    · exact o.onlyS i hi
    · rename_i d
      rw [if_neg d] at low
      rw [NoticeSet.setCond_shows _ h.place_lt, if_neg (by omega)]
      exact o.onlyS i hi
  · have written : g.shown (s.hand h) = if g = h then h.stands s else g.shown s := by
      unfold Held.shown Held.set
      rw [dset, sset]
      by_cases e : g = h
      · rw [e, if_pos rfl]
        cases h.inD <;> simp [NoticeSet.setCond_shows _ h.place_lt]
      · rw [if_neg e]
        cases hd : h.inD <;> cases gd : g.inD <;> simp only [Bool.false_eq_true, if_false, if_true]
        · rw [NoticeSet.setCond_shows _ h.place_lt, if_neg fun hp => e (Held.eq_of_place (gd.trans hd.symm) hp)]
        · rw [NoticeSet.setCond_shows _ h.place_lt, if_neg fun hp => e (Held.eq_of_place (gd.trans hd.symm) hp)]
    rw [written, stands]
    by_cases e : g = h
    · rw [if_pos e, e]
    · rw [if_neg e]
      exact o.shown g (by simp [e, hg])

/-- An event flag becomes pending; no indicator moves (R165). -/
theorem State.Owes.raiseD {l : List Held} {s : State} (o : s.Owes l) (f : DFlag) : (s.raiseD f).Owes l :=
  ⟨o.dset.raise (by cases f <;> decide), o.sset, o.onlyD, o.onlyS, fun g hg => by
    have stands := ((s.raiseD_frame f).heldSame (h := g) (by simp [Block.feeds])).stands_eq
    rw [stands, ← o.shown g hg]
    unfold Held.shown Held.set
    split <;> rfl⟩

theorem State.Owes.raiseS {l : List Held} {s : State} (o : s.Owes l) (f : SFlag) : (s.raiseS f).Owes l :=
  ⟨o.dset, o.sset.raise (by cases f <;> decide), o.onlyD, o.onlyS, fun g hg => by
    have stands := ((s.raiseS_frame f).heldSame (h := g) (by simp [Block.feeds])).stands_eq
    rw [stands, ← o.shown g hg]
    unfold Held.shown Held.set
    split <;> rfl⟩

end Sys2Proof.Machine
end

section
/-!
SUPPORT. What every operation leaves owed to the Notice Unit: nothing more than before it.
-/
namespace Sys2Proof.Machine

/-- What the conditions are read from, and the notice sets. -/
def State.noticeInputs (s : State) : Vector Bay 32 × Vector (Option Entry) 64 × Envelope × Vector LinkPort 6 ×
    Vector Cabinet 4 × Straps × NoticeSet × NoticeSet :=
  (s.bays, s.roster, s.env, s.ports, s.cabinets, s.straps, s.dset, s.sset)

/-! ### The conditions one by one -/

namespace State.Owes

variable {l : List Held} {s : State}

theorem evalOverdue (o : s.Owes (.overdue :: l)) : s.evalOverdue.Owes l := o.hand

theorem evalAtRisk (o : s.Owes (.atRisk :: l)) : s.evalAtRisk.Owes l := o.hand

theorem evalExceeded (o : s.Owes (.exceeded :: l)) : s.evalExceeded.Owes l := o.hand

theorem evalShed (o : s.Owes (.shed :: l)) : s.evalShed.Owes l := o.hand

theorem evalLinkTrouble (o : s.Owes (.linkTrouble :: l)) : s.evalLinkTrouble.Owes l := o.hand

theorem evalStaleCabinet (o : s.Owes (.staleCabinet :: l)) : s.evalStaleCabinet.Owes l := o.hand

theorem evalLoadStale (o : s.Owes (.loadStale :: l)) : s.evalLoadStale.Owes l := o.hand

theorem evalUnconfirmed (o : s.Owes (.unconfirmed :: l)) : s.evalUnconfirmed.Owes l := o.hand

theorem evalSession (o : s.Owes (.atRisk :: .unconfirmed :: .exceeded :: l)) : s.evalSession.Owes l :=
  o.evalAtRisk.evalUnconfirmed.evalExceeded

/-- An event that comes about under a condition, and changes nothing where it does not (log 3). -/
theorem ite {c : Prop} [Decidable c] {t : State} (o : s.Owes l) (ht : c → t.Owes l) : State.Owes l (if c then t else s) := by
  split
  · rename_i hc; exact ht hc
  · exact o

theorem foldl {α : Type} {f : State → α → State} (hf : ∀ u a, u.Owes l → (f u a).Owes l) :
    ∀ (as : List α) {s : State}, s.Owes l → (as.foldl f s).Owes l
  | [], _, o => o
  | a :: as, _, o => foldl hf as (hf _ a o)

/-- A write to blocks that no condition is read from. -/
theorem of_eq {t : State} (o : s.Owes l) (h : t.noticeInputs = s.noticeInputs) : t.Owes l := by
  simp only [State.noticeInputs, Prod.mk.injEq] at h
  obtain ⟨bays, roster, env, ports, cabinets, straps, dset, sset⟩ := h
  have d : Disturbs [] s t := ⟨dset, sset, fun g _ => by
    cases g <;> simp only [Held.Same, State.bay, State.entry, State.port, State.cabinet, bays, roster, env, ports, cabinets,
      straps, implies_true, and_self]⟩
  exact d.owes o

theorem frame {m : List Block} {t : State} (o : s.Owes l) (f : SameBut m s t) (hm : m.all (Block.within []) = true) :
    t.Owes l := (f.disturbs [] hm).owes o

end State.Owes

/-! ### Writes that leave what is read -/

/-- What the conditions are read from in a bay record. -/
def Bay.readings (x : Bay) : Bool × Nat × Nat := (x.isAtRisk, x.allowance, x.unconfirmed)

theorem Bay.readings_eq {x y : Bay} :
    y.readings = x.readings ↔ y.isAtRisk = x.isAtRisk ∧ y.allowance = x.allowance ∧ y.unconfirmed = x.unconfirmed := by
  simp [Bay.readings]

/-- Bays rewritten with their readings kept. -/
theorem Disturbs.of_bays {m : List Block} (l : List Held) {s t : State} (f : SameBut m s t)
    (hb : ∀ b, (t.bay b).readings = (s.bay b).readings)
    (hl : m.all (Block.within (.atRisk :: .exceeded :: .unconfirmed :: l)) = true) (he : .env ∉ m) : Disturbs l s t := by
  simp only [Bay.readings_eq, forall_and] at hb
  obtain ⟨atRisk, allowance, unconfirmed⟩ := hb
  exact (((f.disturbs _ hl).spare atRisk).spare ⟨allowance, congrArg Envelope.inForce (f .env he)⟩).spare unconfirmed

theorem State.setBay_disturbs {s : State} {b : Fin 32} {x : Bay} (h : x.readings = (s.bay b).readings) :
    Disturbs [] s (s.setBay b x) := by
  refine .of_bays [] (s.setBay_frame b x) (fun a => ?_) rfl (by simp)
  rw [State.bay_setBay]
  split
  · rename_i e; rw [h, e]
  · rfl

/-- A bay rewritten with its last pass results kept: the count and the allowance may differ. -/
theorem State.setBay_disturbs_setpoints {s : State} {b : Fin 32} {x : Bay} (h : x.isAtRisk = (s.bay b).isAtRisk) :
    Disturbs [.unconfirmed, .exceeded] s (s.setBay b x) := by
  refine ((s.setBay_frame b x).disturbs [.atRisk, .unconfirmed, .exceeded] rfl).spare fun a => ?_
  rw [State.bay_setBay]
  split
  · rename_i e; rw [h, e]
  · rfl

theorem State.mapBays_disturbs {s : State} {f : Fin 32 → Bay → Bay} (h : ∀ b x, (f b x).readings = x.readings) :
    Disturbs [] s (s.mapBays f) :=
  .of_bays [] (s.mapBays_frame f) (fun b => by rw [State.bay_mapBays, h]) rfl (by simp)

theorem Bay.isAtRisk_of_session {x : Bay} {y : Session} (h : x.session = some y) : x.isAtRisk = y.last.any (·.atRisk) := by
  rw [Bay.isAtRisk, h]; rfl

theorem Bay.isAtRisk_of_none {x : Bay} (h : x.session = none) : x.isAtRisk = false := by
  rw [Bay.isAtRisk, h]; rfl

/-- A session rewritten with its last pass results kept. -/
theorem State.setSession_disturbs {s : State} {b : Fin 32} {x y : Session} (h : (s.bay b).session = some x)
    (hl : y.last = x.last) : Disturbs [] s (s.setBay b { s.bay b with occ := .session y }) := by
  refine State.setBay_disturbs (Bay.readings_eq.mpr ⟨?_, rfl, rfl⟩)
  rw [Bay.isAtRisk_of_session h, ← hl]
  exact Bay.isAtRisk_of_session rfl

theorem State.setPort_disturbs {s : State} {p : Port} {x : LinkPort} (h : x.health = (s.port p).health) :
    Disturbs [] s (s.setPort p x) := by
  refine ((s.setPort_frame p x).disturbs [.linkTrouble] rfl).spare fun q => ?_
  rw [State.port_setPort]
  split
  · rename_i e; rw [h, e]
  · rfl

theorem State.setEntry_disturbs {s : State} {k : Fin 64} {x : Option Entry}
    (h : x.any Entry.isOverdue = (s.entry k).any Entry.isOverdue) : Disturbs [] s (s.setEntry k x) := by
  refine ((s.setEntry_frame k x).disturbs [.overdue] rfl).spare fun j => ?_
  rw [State.entry_setEntry]
  split
  · rename_i e; rw [h, e]
  · rfl

/-- Cabinets rewritten with their stale round counts kept. -/
theorem Disturbs.of_cabinets {s t : State} (f : SameBut [.cabinets] s t)
    (hc : ∀ c, (t.cabinet c).staleRounds = (s.cabinet c).staleRounds) : Disturbs [] s t :=
  (f.disturbs [.staleCabinet] rfl).spare ⟨f .straps (by simp), hc⟩

namespace State.Owes

variable {l : List Held} {s : State}

/-! ### Transmission and publication (R88, R90, R91, R93, R109, R110) -/

theorem kick (o : s.Owes l) (p : Port) : (s.kick p).Owes l :=
  o.ite fun _ => (State.setPort_disturbs (by rfl)).owes o

theorem reply (o : s.Owes l) (p : Port) (m : Msg) : (s.reply p m).Owes l := by
  unfold State.reply
  split
  · exact o
  · exact kick ((State.setPort_disturbs (by rfl)).owes o) p

theorem replyWith (o : s.Owes l) (p : Port) (r : Option Msg) : (s.replyWith p r).Owes l := by
  cases r with
  | none => exact o
  | some m => exact o.reply p m

theorem take (o : s.Owes l) (p : Port) : (s.take p).Owes l := (State.setPort_disturbs (by rfl)).owes o

theorem setRx (o : s.Owes l) (p : Port) (x : Receiver) : (s.setRx p x).Owes l := (State.setPort_disturbs (by rfl)).owes o

/-- A setpoint issued may bring the total above or below the envelope (R48). -/
theorem issue (o : s.Owes l) (b : Fin 32) (v : Nat) : (s.issue b v).Owes (.exceeded :: l) := by
  have written : Disturbs [.exceeded] s (s.setBay b { s.bay b with published := v, seq := (s.bay b).seq + 1 }) := by
    refine (State.setBay_disturbs_setpoints (by rfl)).spare fun a => ?_
    rw [State.bay_setBay]
    split
    · rename_i e; rw [e]
    · rfl
  exact ((written.owes o).frame (State.setBoard_frame _ b _) rfl).kick _

theorem publish (o : s.Owes l) (b : Fin 32) (v : Nat) : (s.publish b v).Owes l :=
  o.ite fun _ => (o.issue b v).evalExceeded

theorem limitVehicle (o : s.Owes l) (b : Fin 32) : (s.limitVehicle b).Owes l := o.ite fun _ => o.publish b _

theorem confirm (o : s.Owes l) (b : Fin 32) (q : Byte) : (s.confirm b q).Owes l :=
  o.ite fun _ => evalExceeded (evalUnconfirmed ((State.setBay_disturbs_setpoints (by rfl)).owes o))

theorem resync (o : s.Owes l) (b : Fin 32) (v : Nat) (q : Byte) : (s.resync b v q).Owes l := by
  have adopts : (s.adopt b v q).Owes l :=
    evalExceeded (evalUnconfirmed (((State.setBay_disturbs_setpoints (by rfl)).owes o).frame (State.setBoard_frame _ b none) rfl))
  have cut := adopts.limitVehicle b
  exact cut.ite fun _ => cut.publish b _

/-! ### Sessions (R17, R18, R21, R23) -/

/-- An entry rewritten may change OVERDUE, which is then handed over (R33). -/
theorem setEntry_evalOverdue (o : s.Owes l) (k : Fin 64) (x : Option Entry) : (s.setEntry k x).evalOverdue.Owes l :=
  evalOverdue (((s.setEntry_frame k x).disturbs [.overdue] rfl).owes o)

/-- A bay rewritten may change each condition that a session start or end evaluates (R48, R73, R80). -/
theorem setBay_evalSession (o : s.Owes l) (b : Fin 32) (x : Bay) : ((s.setBay b x).mark b).evalSession.Owes l :=
  evalSession ((((s.setBay_frame b x).disturbs [.atRisk, .unconfirmed, .exceeded] rfl).owes o).frame
    (State.mark_frame _ b) rfl)

theorem leavePlugged (o : s.Owes l) (k : Fin 64) (energy : Nat) : (s.leavePlugged k energy).Owes l := by
  unfold State.leavePlugged
  split
  · exact o.setEntry_evalOverdue k _
  · exact o

theorem endSession (o : s.Owes l) (b : Fin 32) : (s.endSession b).Owes l := by
  unfold State.endSession
  split
  · exact o
  · refine setBay_evalSession (frame (frame ?_ (State.setBoard_frame _ b none) rfl) (State.setPendingInc_frame _ b none) rfl) b _
    split
    · exact o.leavePlugged _ _
    · exact o

theorem resolve (o : s.Owes l) (b : Fin 32) (t : Tag) : (s.resolve b t).1.Owes l := by
  unfold State.resolve
  split
  · exact o.raiseD _
  · split
    · exact o
    · split
      · exact o.raiseD _
      · exact o.setEntry_evalOverdue _ _

theorem startSession (o : s.Owes l) (b : Fin 32) (t : Tag) (pveh : Nat) : (s.startSession b t pveh).1.Owes l :=
  (o.resolve b t).setBay_evalSession b _

theorem satisfy (o : s.Owes l) (b : Fin 32) : (s.satisfy b).Owes l := by
  unfold State.satisfy
  split
  · exact o
  · rename_i x session
    split
    · exact o
    · exact o.ite fun _ => raiseD ((State.setSession_disturbs session (by rfl)).owes o) _

theorem unsatisfy (o : s.Owes l) (b : Fin 32) : (s.unsatisfy b).Owes l := by
  unfold State.unsatisfy
  split
  · exact o
  · rename_i x session
    split
    · exact o
    · exact o.ite fun _ => (State.setSession_disturbs session (by rfl)).owes o

theorem onSession (o : s.Owes l) (b : Fin 32) {f : Session → Session} (hf : ∀ x, (f x).last = x.last) :
    (s.onSession b f).Owes l := by
  cases h : (s.bay b).session with
  | none => rw [State.onSession_none f h]; exact o
  | some x => rw [State.onSession_some f h]; exact (State.setSession_disturbs h (hf x)).owes o

/-! ### The Depot Clock (R28, R30 to R33) -/

theorem evaluateDepartures (o : s.Owes l) : s.evaluateDepartures.Owes l := by
  have entries : SameBut [.roster] s (s.mapEntries fun e => e.depart s.clock.minute) := fun k hk => by
    cases k <;> first | (simp only [Block.same, State.mapEntries]; done) | simp at hk
  exact evalOverdue ((entries.disturbs [.overdue] rfl).owes o)

theorem minuteTick (o : s.Owes l) : s.minuteTick.Owes l := evaluateDepartures (o.frame (clock_frame s _) rfl)

/-! ### Rounds (R79, R80, R86, R87) -/

theorem sampleFreshness (o : s.Owes l) : s.sampleFreshness.Owes l :=
  evalStaleCabinet (((s.mapCabinets_frame _).disturbs [.staleCabinet] rfl).owes o)

theorem countUnconfirmed (o : s.Owes l) : s.countUnconfirmed.Owes l := by
  have counts : Disturbs [.unconfirmed] s (s.mapBays fun _ x => x.countUnconfirmed) := by
    refine (((s.mapBays_frame _).disturbs [.atRisk, .exceeded, .unconfirmed] rfl).spare fun b => ?_).spare
      ⟨fun b => ?_, congrArg Envelope.inForce (s.mapBays_env _)⟩
    · rw [State.bay_mapBays]; rfl
    · rw [State.bay_mapBays]; rfl
  unfold State.countUnconfirmed
  exact evalUnconfirmed (counts.owes o)

theorem stepEnvelope (o : s.Owes l) : s.stepEnvelope.Owes l := by
  have steps : ∀ x : Envelope, x.shed = s.env.shed → Disturbs [.loadStale, .exceeded] s { s with env := x } := fun x hx =>
    ((env_frame s x).disturbs [.shed, .loadStale, .exceeded] rfl).spare hx
  refine evalExceeded (evalLoadStale ((steps _ ?_).owes o))
  rfl

theorem checkSatisfied (o : s.Owes l) : s.checkSatisfied.Owes l :=
  foldl (fun _ b h => (h.unsatisfy b).satisfy b) allBays o

theorem roundStart (o : s.Owes l) : s.roundStart.Owes l := by
  have sampled := (o.frame s.endRound_frame rfl).sampleFreshness.countUnconfirmed.checkSatisfied.stepEnvelope
  obtain ⟨-, -, -, begun⟩ := State.beginPass_spec _ s.freshness
  exact sampled.frame begun rfl

theorem requestEarly (o : s.Owes l) : s.requestEarly.Owes l := by
  unfold State.requestEarly
  split
  · exact o
  · split
    · exact o.of_eq rfl
    · exact o.roundStart

theorem requestIfExceeded (o : s.Owes l) : s.requestIfExceeded.Owes l := o.ite fun _ => o.requestEarly

theorem increase (o : s.Owes l) (b : Fin 32) (target : Nat) : (s.increase b target).Owes l :=
  o.ite fun _ => (o.publish b _).of_eq rfl

theorem takeSlot (o : s.Owes l) (k : Fin 4) : (s.takeSlot k).Owes l := by
  refine foldl (fun u b h => ?_) s.alloc.order (o.of_eq rfl)
  unfold State.evaluateAt
  split
  · exact h
  · exact h.ite fun _ => (h.increase b _).frame (State.setPendingInc_frame _ b none) rfl

/-! ### Modes (R95, R126, R157 to R160) -/

theorem resetLinks (o : s.Owes l) : s.resetLinks.Owes l := by
  have bays : Disturbs [] s (s.mapBays fun b x =>
      if (s.port (.c (cabinetOf b))).health = .detached then { x with reachable := true, resync := true } else x) :=
    State.mapBays_disturbs fun b x => by split <;> rfl
  have silences : ∀ u : State, Disturbs [] u (u.mapCabinets fun _ x => { x with silence := none }) := fun u =>
    .of_cabinets (u.mapCabinets_frame _) fun c => by rw [State.cabinet_mapCabinets]
  unfold State.resetLinks
  exact evalLinkTrouble ((silences _).owes (((State.mapPorts_frame _ _).disturbs [.linkTrouble] rfl).owes (bays.owes o)))

theorem publishZero (o : s.Owes l) : s.publishZero.Owes l :=
  foldl (fun _ b h => h.ite fun _ => h.publish b 0) allBays o

theorem startSilence (o : s.Owes l) : s.startSilence.Owes l := by
  have starts := s.startSilence_spec
  refine Disturbs.owes (m := []) (.of_cabinets starts.frame fun c => ?_) o
  rw [starts.cabinets]
  split <;> rfl

theorem changeMode (o : s.Owes l) (m : Mode) : (s.changeMode m).Owes l := by
  have configures : s.enterConfigure.Owes l := by
    have zero := (o.frame s.stopRound_frame rfl).resetLinks.publishZero
    unfold State.enterConfigure
    generalize s.stopRound.resetLinks.publishZero = u at zero
    exact zero.of_eq rfl
  have enters : (s.enterRounds m).Owes l := by
    have entered : State.Owes l { s.startSilence with mode := m, settings := s.settings.govern } := o.startSilence.of_eq rfl
    exact entered.roundStart
  have swaps : (s.swapMode m).Owes l := (startSilence (o.ite fun _ => o.frame s.dropIncreases_frame rfl)).of_eq rfl
  unfold State.changeMode
  refine of_eq (s := if m = s.mode then s else _) ?_ rfl
  split
  · exact o
  · split
    · exact configures
    · split
      · exact enters
      · exact swaps

/-! ### Pass completion (R82) -/

/-- Last pass results written (R72) change nothing of a bay but what AT RISK is read from. -/
theorem writeResults (o : s.Owes l) (sn : Snapshot) (shares : List (Fin 32 × Nat)) :
    (s.writeResults sn shares).Owes (.atRisk :: l) := by
  have kept : ∀ b, ((s.writeResults sn shares).bay b).allowance = (s.bay b).allowance ∧
      ((s.writeResults sn shares).bay b).unconfirmed = (s.bay b).unconfirmed := fun b => by
    rw [State.writeResults, State.bay_mapBays]
    split
    · split <;> exact ⟨rfl, rfl⟩
    · exact ⟨rfl, rfl⟩
  have bays : SameBut [.bays] s (s.writeResults sn shares) := s.mapBays_frame _
  have written : Disturbs [.atRisk] s (s.writeResults sn shares) :=
    ((bays.disturbs [.exceeded, .unconfirmed, .atRisk] rfl).spare
      ⟨fun b => (kept b).1, congrArg Envelope.inForce (bays .env (by simp))⟩).spare fun b => (kept b).2
  exact written.owes o

theorem finishPass (o : s.Owes l) (sn : Snapshot) : (s.finishPass sn).Owes l := by
  have results : ((s.writeResults sn sn.shares).replaceOrder sn).Owes (.atRisk :: l) := by
    have written := o.writeResults sn sn.shares
    generalize s.writeResults sn sn.shares = u at written
    exact written.of_eq rfl
  have decreased := foldl (f := State.decrease sn sn.shares) (fun _ b h => h.ite fun _ => h.publish b _) allBays
    results.evalAtRisk
  simp only [State.finishPass]
  refine frame ?_ (State.endPass_frame _) rfl
  split
  · exact (decreased.frame (State.noteIncreases_frame _ sn sn.shares) rfl).takeSlot 0
  · exact decreased

theorem completePass (o : s.Owes l) (sn : Snapshot) : (s.completePass sn).Owes l := by
  have modes : ∀ {u : State}, u.Owes l → u.takePendingMode.Owes l := fun h => by
    unfold State.takePendingMode
    split
    · exact h.changeMode _
    · exact h
  have requests : ∀ {u : State}, u.Owes l → u.takeHeldRequest.Owes l := fun {u} h => by
    have cleared : State.Owes l { u with alloc := { u.alloc with early := false } } := h.of_eq rfl
    unfold State.takeHeldRequest
    split
    · simp only
      split
      · exact cleared
      · exact cleared.roundStart
    · exact h
  exact requests (modes (o.finishPass sn))

/-! ### Load shedding (R42, R44, R45, R92) -/

/-- The shed set or cleared changes the envelope in force, and no load report. -/
theorem withShed (o : s.Owes l) (x : Bool) :
    State.Owes (.shed :: .exceeded :: l) { s with env := { s.env with shed := x } } := by
  have sets : Disturbs [.shed, .exceeded] s { s with env := { s.env with shed := x } } :=
    ((env_frame s _).disturbs [.loadStale, .shed, .exceeded] rfl).spare (by rfl)
  exact sets.owes o

theorem assertShed (o : s.Owes l) : s.assertShed.Owes l := by
  have halves : ∀ {u : State}, u.Owes (.shed :: .exceeded :: l) → u.halveAll.Owes (.shed :: .exceeded :: l) := fun h =>
    foldl (fun u b h => h.ite fun _ => (h.issue b _).mono (by simp)) allBays h
  have shed := o.withShed true
  simp only [State.assertShed]
  refine requestEarly (evalExceeded (evalShed ?_))
  split
  · exact shed
  · exact halves shed

theorem releaseShed (o : s.Owes l) : s.releaseShed.Owes l := (o.withShed false).evalShed.evalExceeded

theorem setupPins (o : s.Owes l) (fn dir pins : Byte) : (s.setupPins fn dir pins).Owes l := by
  have set := o.frame (s.withPins_frame fn dir pins) rfl
  rw [State.setupPins_eq]
  split
  · exact set
  · split
    · exact set.assertShed.ite fun _ => set
    · exact set.ite fun _ => set.releaseShed

/-! ### Links (R100 to R122) -/

theorem detach (o : s.Owes l) (p : Port) : (s.detach p).Owes l := by
  have detached := ((s.setPort_frame p (s.port p).detached).disturbs [.linkTrouble] rfl).owes o
  unfold State.detach
  refine evalLinkTrouble ?_
  cases p with
  | c n =>
    obtain ⟨bays, -, -, cabinets, f⟩ := (s.setPort (.c n) (s.port (.c n)).detached).detachCabinet_spec n
    refine Disturbs.owes (m := []) ?_ detached
    refine (Disturbs.of_bays [.staleCabinet] f (fun b => ?_) rfl (by simp)).spare ⟨f .straps (by simp), fun d => ?_⟩
    · rw [bays]; split <;> rfl
    · rw [cabinets]; split <;> rfl
  | d | s => exact detached

theorem restartSilence (o : s.Owes l) (c : Fin 4) : (s.restartSilence c).Owes l := by
  obtain ⟨cabinets, f⟩ := s.restartSilence_spec c
  refine Disturbs.owes (m := []) (.of_cabinets f fun d => ?_) o
  rw [cabinets]
  split <;> rfl

theorem rejoin (o : s.Owes l) (p : Port) : (s.rejoin p).Owes l := by
  have joined :=
    ((s.setPort_frame p { s.port p with errors := 0, health := .sound, rejoin := 0 }).disturbs [.linkTrouble] rfl).owes o
  unfold State.rejoin
  refine evalLinkTrouble ?_
  cases p with
  | c n => exact ((State.mapBays_disturbs fun b x => by split <;> rfl).owes joined).restartSilence n
  | d | s => exact joined

theorem reject (o : s.Owes l) (p : Port) : (s.reject p).Owes l := by
  unfold State.reject
  simp only
  split
  · exact (State.setPort_disturbs (by rfl)).owes o
  · split
    · exact o.detach p
    · exact evalLinkTrouble (((s.setPort_frame p _).disturbs [.linkTrouble] rfl).owes o)

theorem accept (o : s.Owes l) (p : Port) : (s.accept p).Owes l := by
  have counted : ∀ x : LinkPort, (s.setPort p x).evalLinkTrouble.Owes l := fun x =>
    evalLinkTrouble (((s.setPort_frame p x).disturbs [.linkTrouble] rfl).owes o)
  unfold State.accept
  cases p with
  | c n => exact (counted _).restartSilence n
  | d | s => exact counted _

theorem acceptDetached (o : s.Owes l) (p : Port) (kind : Byte) : (s.acceptDetached p kind).Owes l := by
  refine o.ite fun _ => ?_
  split
  · exact o.rejoin p
  · exact (State.setPort_disturbs (by rfl)).owes o

theorem handOn (o : s.Owes l) (p : Port) (x : Item) : (s.handOn p x).Owes l := by
  unfold State.handOn State.overrun
  simp only
  split
  · exact o
  · split
    · exact (State.setPort_disturbs (by rfl)).owes o
    · split
      · exact o.raiseD _
      · exact o.raiseS _

theorem deliver (o : s.Owes l) (p : Port) (m : Msg) (good : Bool) : (s.deliver p m good).Owes l := by
  unfold State.deliver
  split
  · split
    · exact o.acceptDetached p _
    · exact (o.accept p).handOn p _
  · split
    · exact (o.reject p).handOn p _
    · exact o.reject p

theorem faultHeader (o : s.Owes l) (p : Port) : (s.faultHeader p).Owes l := (o.setRx p _).reject p

theorem completeMessage (o : s.Owes l) (p : Port) : (s.completeMessage p).Owes l := by
  unfold State.completeMessage
  split
  · split
    · exact (o.setRx p _).deliver p _ _
    · exact o
  · exact o

theorem settle (o : s.Owes l) (p : Port) : (s.settle p).Owes l := by
  unfold State.settle
  split
  · exact o.faultHeader p
  · exact o.ite fun _ => o.completeMessage p

theorem character (o : s.Owes l) (p : Port) (b : Byte) : (s.character p b).Owes l := by
  unfold State.character
  split
  · exact o.faultHeader p
  · exact o
  · exact o.setRx p _
  · exact o.setRx p _

theorem sendReply (o : s.Owes l) (p : Port) : (s.sendReply p).Owes l := by
  unfold State.sendReply
  simp only
  split <;> exact (State.setPort_disturbs (by rfl)).owes o

theorem beginSending (o : s.Owes l) (p : Port) : (s.beginSending p).Owes l := by
  unfold State.beginSending
  split
  · split
    · exact (State.setPort_disturbs (by rfl)).owes (o.frame (s.setBoard_frame _ none) rfl)
    · exact o.sendReply _
  · exact o.sendReply _

end State.Owes
end Sys2Proof.Machine
end

section
/-!
PROOFS. Every step keeps every condition indicator equal to its condition (R164, R166): O60.
-/
namespace Sys2Proof.Machine

namespace State.Owes

variable {l : List Held} {s : State}

/-! ### The handler -/

/-- A property of the effects of a kind's rule is kept by the handling of an item: the buffers, the answer queue and the
transmitter are read for no condition. -/
theorem handle (o : s.Owes l) {k : Kind} {p : Port} {body : Msg → State → State × Option Msg}
    (hb : ∀ m u, u.Owes l → (body m u).1.Owes l) : (s.handle k p body).Owes l := by
  unfold State.handle
  split
  · rename_i m _
    split
    · split
      · exact (hb m _ (o.take p)).replyWith p _
      · exact (o.take p).reply p _
      · exact o.take p
    · exact o
  · exact o

theorem onCabinet (o : s.Owes l) {p : Port} {f : Fin 4 → Msg → State → State × Option Msg} {m : Msg}
    (hf : ∀ n, (f n m s).1.Owes l) : (onCabinet p f m s).1.Owes l := by
  cases p with
  | c n => exact hf n
  | d | s => exact o

/-! ### Cabinet messages (chapter 8) -/

theorem fitOutlet (o : s.Owes l) (b : Fin 32) (cap : Nat) : (s.fitOutlet b cap).Owes l := by
  simp only [State.fitOutlet]
  split
  · rename_i unfitted
    have vacant : Disturbs [] s (s.setBay b { s.bay b with occ := .vacant, pcap := cap }) := by
      refine State.setBay_disturbs (Bay.readings_eq.mpr ⟨?_, rfl, rfl⟩)
      rw [Bay.isAtRisk_of_none (by rfl), Bay.isAtRisk_of_none (by rw [Bay.session, unfitted])]
    exact (vacant.owes o).frame (State.mark_frame _ b) rfl
  · exact limitVehicle ((State.setBay_disturbs (by rfl)).owes o) b

theorem unfitOutlet (o : s.Owes l) (b : Fin 32) : (s.unfitOutlet b).Owes l := by
  unfold State.unfitOutlet
  split
  · exact o
  · have vacant : ((s.endSession b).bay b).session = none := by
      cases h : (s.bay b).session with
      | none => rw [State.endSession_none h, h]
      | some x => rw [(State.endSession_spec h).bay]; rfl
    have ended := o.endSession b
    generalize s.endSession b = u at vacant ended
    have unfitted : Disturbs [] u (u.setBay b { u.bay b with occ := .unfitted, pcap := 0 }) := by
      refine State.setBay_disturbs (Bay.readings_eq.mpr ⟨?_, rfl, rfl⟩)
      rw [Bay.isAtRisk_of_none (by rfl), Bay.isAtRisk_of_none vacant]
    exact (unfitted.owes ended).frame (State.mark_frame _ b) rfl

theorem outlets (o : s.Owes l) (c : Fin 4) (m : Msg) : (outletsBody c m s).1.Owes l := by
  simp only [outletsBody]
  split
  · rw [done_fst]
    refine foldl (fun u x h => ?_) allOutlets o
    split
    · exact h.fitOutlet _ _
    · exact h.unfitOutlet _
  · exact o

theorem plug (o : s.Owes l) (c : Fin 4) (m : Msg) : (plugBody c m s).1.Owes l := by
  unfold plugBody
  split
  · simp only
    split
    · exact o
    · exact (o.endSession _).startSession _ _ _
  · exact o

theorem unplug (o : s.Owes l) (c : Fin 4) (m : Msg) : (unplugBody c m s).1.Owes l := by
  simp only [unplugBody]
  split
  · exact o
  · exact o
  · exact o.endSession _

theorem meter (o : s.Owes l) (c : Fin 4) (m : Msg) : (meterBody c m s).1.Owes l := by
  have takes : ∀ (u : State) (b : Fin 32) (f : MeterFields), u.Owes l → (u.takeApplied b f).Owes l := fun u b f h => by
    unfold State.takeApplied
    split
    · exact h.resync b _ _
    · exact h.confirm b _
  simp only [meterBody]
  split
  · rename_i f x _ session
    simp only
    split
    · exact (takes _ _ _ (limitVehicle ((State.setSession_disturbs session (by rfl)).owes o) _)).satisfy _
    · exact o.endSession _
  · exact o

theorem roundEnd (o : s.Owes l) (c : Fin 4) (m : Msg) : (roundEndBody c m s).1.Owes l := by
  refine Disturbs.owes (m := []) (.of_cabinets (s.setCabinet_frame c _) fun d => ?_) o
  change ((s.setCabinet c { s.cabinet c with roundEnd := true }).cabinet d).staleRounds = _
  rw [State.cabinet_setCabinet]
  split
  · rename_i e; rw [e]
  · rfl

theorem applied (o : s.Owes l) (c : Fin 4) (m : Msg) : (appliedBody c m s).1.Owes l := by
  unfold appliedBody
  split
  · exact o.confirm _ _
  · exact o

theorem outletFault (o : s.Owes l) (c : Fin 4) (m : Msg) : (outletFaultBody c m s).1.Owes l := by
  unfold outletFaultBody
  split
  · simp only
    split
    · exact o
    · exact o
    · rename_i x session
      have stored := fun code : Byte => (State.setSession_disturbs (y := { x with phase := .fault code })
        (Bay.session_eq_some.mpr session) rfl).owes o
      rw [done_fst]
      simp only [State.faultOutlet]
      refine raiseS ?_ _
      split
      · exact stored _
      · exact State.Owes.publish (stored _) _ 0
  · exact o

/-! ### Roster edits (R12 to R16) -/

/-- A put leaves the state of its entry, and with it OVERDUE. -/
theorem updateEntry (o : s.Owes l) {k : Fin 64} {e : Entry} (he : s.entry k = some e) (f : PutFields) :
    (s.updateEntry k e f).Owes l := by
  have put : (s.setEntry k (some (e.put f))).Owes l :=
    Disturbs.owes (m := []) (State.setEntry_disturbs (by rw [he]; rfl)) o
  simp only [State.updateEntry]
  split
  · exact put.ite fun _ => (put.leavePlugged k _).onSession _ fun _ => rfl
  · exact put

/-- Relinking makes a WAITING entry PLUGGED with overdue 0, and changes no pass result (R15). -/
theorem relink (o : s.Owes l) (k : Fin 64) : (s.relink k).Owes l := by
  have denies : ∀ (d : Disposition) (bs : List (Fin 32)) {u : State}, u.Owes l →
      (bs.foldl (fun v b => v.onSession b (·.deny d)) u).Owes l := fun d bs _ h =>
    foldl (fun _ b h => h.onSession (f := (·.deny d)) b fun _ => rfl) bs h
  unfold State.relink
  split
  · exact o
  · rename_i e entry
    refine o.ite fun waiting => ?_
    simp only
    split
    · exact denies .refused _ o
    · cases allBays.filter (s.relinks e.tag) with
      | nil => exact o
      | cons b rest =>
        have plugged : ((s.onSession b (·.grantSlot k)).setEntry k (some { e with state := .plugged b false })).Owes l := by
          refine Disturbs.owes (m := []) (State.setEntry_disturbs ?_) (o.onSession b fun _ => rfl)
          rw [(s.onSession_frame b _).entry (by simp), entry, Option.any_some, Option.any_some, Entry.isOverdue,
            Entry.isOverdue, waiting]
        simp only [State.linkBays]
        split
        · exact denies .duplicate rest plugged
        · exact (denies .duplicate rest plugged).raiseD _

theorem addEntry (o : s.Owes l) {k : Fin 64} (free : s.entry k = none) (f : PutFields) : (s.addEntry k f).Owes l :=
  frame (Disturbs.owes (m := []) (State.setEntry_disturbs (by rw [free]; rfl)) o) (State.setIndex_frame _ _ _) rfl

theorem rosterPut (o : s.Owes l) (m : Msg) : (rosterPutBody m s).1.Owes l := by
  unfold rosterPutBody
  split
  · exact o
  · split
    · split
      · rename_i entry
        exact (o.updateEntry entry _).relink _
      · exact o
    · split
      · exact o
      · split
        · exact o
        · rename_i k search
          have free : s.entry k = none := by
            simpa using List.find?_some (show allSlots.find? (fun j => (s.entry j).isNone) = some k from search)
          exact (o.addEntry free _).relink _

/-- A dropped entry is not PLUGGED, and so not overdue (R16). -/
theorem rosterDrop (o : s.Owes l) (m : Msg) : (rosterDropBody m s).1.Owes l := by
  unfold rosterDropBody
  split
  · simp only
    split
    · exact o
    · split
      · exact o
      · rename_i k _ e entry
        split
        · exact o
        · rename_i unplugged
          have quiet : e.isOverdue = false := by
            unfold Entry.isOverdue
            unfold Entry.isPlugged at unplugged
            split
            · rename_i b overdue h
              simp [h] at unplugged
            · rfl
          refine frame (Disturbs.owes (m := []) (State.setEntry_disturbs ?_) o) (State.setIndex_frame _ _ _) rfl
          rw [entry]
          exact quiet.symm
  · exact o

theorem endRebuild (o : s.Owes l) (r : Rebuild) : (s.endRebuild r).Owes l := by
  cases h : s.rebuiltIndex r.window with
  | some v =>
    rw [State.endRebuild_taken h]
    exact (o.frame (s.withIndex_frame _) rfl).reply .d _
  | none =>
    rw [State.endRebuild_collision h]
    exact (o.frame (s.withIndex_frame _) rfl).reply .d _

theorem clockSet (o : s.Owes l) (m : Msg) : (clockSetBody m s).1.Owes l := by
  unfold clockSetBody
  split
  · exact (evaluateDepartures (o.of_eq rfl))
  · exact o

theorem vanPolicy (o : s.Owes l) (m : Msg) : (vanPolicyBody m s).1.Owes l := by
  unfold vanPolicyBody
  split
  · exact o.of_eq rfl
  · exact o

theorem tagWindow (o : s.Owes l) (m : Msg) : (tagWindowBody m s).1.Owes l := by
  unfold tagWindowBody
  split
  · split
    · exact o.of_eq rfl
    · exact o
  · exact o

/-! ### Requests shared by both ports (R154, R167) -/

theorem read (o : s.Owes l) (p : Port) (pins : PinReading) (m : Msg) : (readBody p pins m s).1.Owes l := by
  unfold readBody
  split
  · exact o.frame (s.recognise_frame _) rfl
  · exact o

theorem replyLimit (o : s.Owes l) (p : Port) (m : Msg) : (replyLimitBody p m s).1.Owes l := by
  unfold replyLimitBody
  split
  · rw [done_fst]
    unfold State.setLimit
    split
    · exact o.of_eq rfl
    · exact o.of_eq rfl
  · exact o

/-- What keeps a notice set in order and its indicators as they are, done to the asking port's set. -/
theorem onSet (o : s.Owes l) (p : Port) {f : NoticeSet → Mask → NoticeSet}
    (ok : ∀ {n : NoticeSet} {bits : Mask}, n.Ok bits → (f n bits).Ok bits) (cond : ∀ n bits, (f n bits).cond = n.cond) :
    (s.onSet p f).Owes l := by
  have stands : ∀ g : Held, g.stands (s.onSet p f) = g.stands s := fun g =>
    ((s.onSet_frame p f).heldSame (by simp [Block.feeds])).stands_eq
  have shown : ∀ g : Held, g.shown (s.onSet p f) = g.shown s := fun g => by
    unfold Held.shown Held.set State.onSet
    split <;> split <;> simp only [cond]
  have kept : ∀ g, g ∉ l → g.shown (s.onSet p f) = g.stands (s.onSet p f) := fun g hg => by
    rw [shown, stands]; exact o.shown g hg
  by_cases hp : p = .d
  · have e : s.onSet p f = { s with dset := f s.dset dsetBits } := if_pos hp
    rw [e] at kept ⊢
    exact ⟨ok o.dset, o.sset, by simpa only [cond] using o.onlyD, o.onlyS, kept⟩
  · have e : s.onSet p f = { s with sset := f s.sset ssetBits } := if_neg hp
    rw [e] at kept ⊢
    exact ⟨o.dset, ok o.sset, o.onlyD, by simpa only [cond] using o.onlyS, kept⟩

theorem noticeEnable (o : s.Owes l) (p : Port) (m : Msg) : (noticeEnableBody p m s).1.Owes l := by
  unfold noticeEnableBody
  split
  · rw [done_fst]
    exact o.onSet p (fun h => h.setEnable _) fun _ _ => rfl
  · exact o

theorem noticeClear (o : s.Owes l) (p : Port) (m : Msg) : (noticeClearBody p m s).1.Owes l := by
  unfold noticeClearBody
  split
  · rw [done_fst]
    exact o.onSet p (fun h => h.clear _) fun _ _ => rfl
  · exact o

/-! ### Site requests (chapters 3, 7, 9 and 10) -/

theorem siteLimit (o : s.Owes l) (m : Msg) : (siteLimitBody m s).1.Owes l := by
  unfold siteLimitBody
  split
  · rename_i hi lo _
    have limited : Disturbs [.exceeded] s { s with env := { s.env with pSite := field16 hi lo } } :=
      (((env_frame s _).disturbs [.shed, .loadStale, .exceeded] rfl).spare (by rfl)).spare (by rfl)
    rw [done_fst]
    exact (limited.owes o).evalExceeded.requestIfExceeded
  · exact o

theorem loadReport (o : s.Owes l) (m : Msg) : (loadReportBody m s).1.Owes l := by
  unfold loadReportBody
  split
  · rename_i hi lo _
    have reported : Disturbs [.exceeded, .loadStale] s
        { s with env := { s.env with other := field16 hi lo, stale := false, rounds := 0 } } :=
      ((env_frame s _).disturbs [.shed, .exceeded, .loadStale] rfl).spare (by rfl)
    rw [done_fst]
    exact (reported.owes o).evalExceeded.evalLoadStale.requestIfExceeded
  · exact o

/-- The ramp limit is no part of the envelope in force. -/
theorem rampLimit (o : s.Owes l) (m : Msg) : (rampLimitBody m s).1.Owes l := by
  unfold rampLimitBody
  split
  · rename_i hi lo _
    have same : Disturbs [] s { s with env := { s.env with ramp := field16 hi lo } } :=
      ((((env_frame s _).disturbs [.shed, .loadStale, .exceeded] rfl).spare (by rfl)).spare (by rfl)).spare
        ⟨fun _ => rfl, rfl⟩
    exact same.owes o
  · exact o

theorem modeRequest (o : s.Owes l) (m : Msg) : (modeRequestBody m s).1.Owes l := by
  unfold modeRequestBody
  split
  · split
    · exact o
    · rw [done_fst]
      unfold State.requestMode
      split
      · exact o.of_eq rfl
      · exact o.changeMode _
  · exact o

theorem releaseCabinet (o : s.Owes l) (m : Msg) : (releaseCabinetBody m s).1.Owes l := by
  simp only [releaseCabinetBody]
  split
  · exact o
  · split
    · exact o
    · rw [done_fst]
      exact foldl (fun _ b h => h.endSession b) (baysOf _) o

theorem allocationSetup (o : s.Owes l) (m : Msg) : (allocationSetupBody m s).1.Owes l := by
  unfold allocationSetupBody
  split
  · split
    · exact o.of_eq rfl
    · exact o
  · exact o

theorem slotAssign (o : s.Owes l) (m : Msg) : (slotAssignBody m s).1.Owes l := by
  unfold slotAssignBody
  split
  · simp only
    split
    · split
      · exact (State.setBay_disturbs (by rfl)).owes o
      · exact o
    · exact o
  · exact o

theorem pinSetup (o : s.Owes l) (pins : Byte) (m : Msg) : (pinSetupBody pins m s).1.Owes l := by
  unfold pinSetupBody
  split
  · split
    · exact o.setupPins _ _ _
    · split
      · exact o.of_eq rfl
      · exact o
  · exact o

theorem pinWrite (o : s.Owes l) (m : Msg) : (pinWriteBody m s).1.Owes l := by
  unfold pinWriteBody
  split
  · exact o.of_eq rfl
  · exact o

/-! ### RESTART and RESET (R161, R163, R169) -/

/-- RESTART clears both sets and then hands over every condition anew (R169). -/
theorem restart (o : s.Owes l) : s.restart.Owes [] := by
  have cleared : ∀ {n : NoticeSet} {bits : Mask}, n.Ok bits → n.restarted.Ok bits := fun h =>
    ⟨BitVec.zero_and, h.enable, BitVec.zero_and⟩
  have blocks : s.restartBlocks.Owes
      [.overdue, .atRisk, .exceeded, .shed, .linkTrouble, .staleCabinet, .loadStale, .unconfirmed] :=
    ⟨cleared o.dset, cleared o.sset, fun _ _ => BitVec.getLsbD_zero, fun _ _ => BitVec.getLsbD_zero,
      fun g hg => absurd (by cases g <;> decide) hg⟩
  exact blocks.evalOverdue.evalAtRisk.evalExceeded.evalShed.evalLinkTrouble.evalStaleCabinet.evalLoadStale.evalUnconfirmed

theorem assertReset (o : s.Owes l) : s.assertReset.Owes l := by
  have cut : Disturbs [] s s.assertReset := by
    refine ((s.assertReset_frame.disturbs [.linkTrouble, .staleCabinet] rfl).spare fun p => ?_).spare
      ⟨rfl, fun c => ?_⟩
    · rw [s.assertReset_port]; rfl
    · rw [s.assertReset_cabinet]
  exact cut.owes o

end State.Owes

theorem powerOn_owes (cabs baud : BitVec 2) (pins : Byte) (waiting : List Instr) :
    State.Owes [] { State.powerOn cabs baud pins with pending := waiting } :=
  (State.noticesOk_iff_owes.mp (powerOn_notices cabs baud pins)).of_eq rfl

/-! ### Every command -/

theorem exec_owes {c : Instr} {s t : State} (o : s.Owes []) (e : exec c s = .next t) : t.Owes [] := by
  have inj : ∀ {u : State}, Host.Outcome.next (φ := Fault) (ρ := Refusal) u = .next t → u.Owes [] → t.Owes [] := by
    rintro u ⟨⟩ hu; exact hu
  cases c with
  | messageComplete p => exact inj e (o.ite fun _ => o.completeMessage p)
  | headerFault p => exact inj e (o.ite fun _ => o.faultHeader p)
  | framingError p cause => exact inj e (o.ite fun _ => (o.settle p).ite fun _ => (o.settle p).faultHeader p)
  | idleGapElapsed p =>
    refine inj e (o.ite fun _ => ?_)
    simp only
    split
    · exact (o.settle p).setRx p _
    · exact o.settle p
  | silenceTimerExpiry c => exact inj e (o.ite fun _ => o.detach (.c c))
  | payloadCheck p =>
    refine inj e ?_
    split
    · exact (o.take p).reply p _
    · exact o
  | unknownKind p =>
    refine inj e ?_
    split
    · split
      · exact (o.take p).reply p _
      · exact o
    · exact o
  | keepalive p => exact inj e (o.handle fun _ _ h => h)
  | outlets p => exact inj e (o.handle fun m _ h => h.onCabinet fun n => h.outlets n m)
  | plug p => exact inj e (o.handle fun m _ h => h.onCabinet fun n => h.plug n m)
  | unplug p => exact inj e (o.handle fun m _ h => h.onCabinet fun n => h.unplug n m)
  | meter p => exact inj e (o.handle fun m _ h => h.onCabinet fun n => h.meter n m)
  | roundEnd p => exact inj e (o.handle fun m _ h => h.onCabinet fun n => h.roundEnd n m)
  | applied p => exact inj e (o.handle fun m _ h => h.onCabinet fun n => h.applied n m)
  | outletFault p => exact inj e (o.handle fun m _ h => h.onCabinet fun n => h.outletFault n m)
  | rosterPut p => exact inj e (o.handle fun m _ h => h.rosterPut m)
  | rosterDrop p => exact inj e (o.handle fun m _ h => h.rosterDrop m)
  | clockSet p => exact inj e (o.handle fun m _ h => h.clockSet m)
  | vanPolicy p => exact inj e (o.handle fun m _ h => h.vanPolicy m)
  | tagWindow p => exact inj e (o.handle fun m _ h => h.tagWindow m)
  | indexRebuildEnd =>
    refine inj e ?_
    split
    · exact o
    · split
      · exact o.endRebuild _
      · exact o
  | read p pins => exact inj e (o.handle fun m _ h => h.read p pins m)
  | replyLimit p => exact inj e (o.handle fun m _ h => h.replyLimit p m)
  | noticeEnable p => exact inj e (o.handle fun m _ h => h.noticeEnable p m)
  | noticeClear p => exact inj e (o.handle fun m _ h => h.noticeClear p m)
  | siteLimit p => exact inj e (o.handle fun m _ h => h.siteLimit m)
  | loadReport p => exact inj e (o.handle fun m _ h => h.loadReport m)
  | rampLimit p => exact inj e (o.handle fun m _ h => h.rampLimit m)
  | modeRequest p => exact inj e (o.handle fun m _ h => h.modeRequest m)
  | restart p => exact inj e (o.handle fun _ _ h => h.restart)
  | releaseCabinet p => exact inj e (o.handle fun m _ h => h.releaseCabinet m)
  | allocationSetup p => exact inj e (o.handle fun m _ h => h.allocationSetup m)
  | slotAssign p => exact inj e (o.handle fun m _ h => h.slotAssign m)
  | pinSetup p pins => exact inj e (o.handle fun m _ h => h.pinSetup pins m)
  | pinWrite p => exact inj e (o.handle fun m _ h => h.pinWrite m)
  | endOfGap p => exact inj e (o.ite fun _ => o.beginSending p)
  | messageSent p =>
    exact inj e (o.ite fun _ => State.Owes.kick ((State.setPort_disturbs (by rfl)).owes o) p)
  | secondComplete =>
    refine inj e (o.ite fun _ => ?_)
    simp only
    split
    · exact o.of_eq rfl
    · exact State.Owes.minuteTick (o.of_eq rfl)
  | minuteEvent =>
    refine inj e (o.ite fun _ => ?_)
    split
    · exact State.Owes.minuteTick (o.of_eq rfl)
    · exact o.ite fun _ => State.Owes.minuteTick (o.of_eq rfl)
  | minutePulse => exact inj e (o.ite fun _ => State.Owes.minuteTick (o.of_eq rfl))
  | shedAssertion => exact inj e (o.ite fun _ => State.Owes.assertShed (o.of_eq rfl))
  | shedRelease => exact inj e (o.ite fun _ => State.Owes.releaseShed (o.of_eq rfl))
  | roundTimerExpiry => exact inj e (o.ite fun _ => o.roundStart)
  | passCompletion =>
    refine inj e ?_
    split
    · exact o
    · split
      · exact o.completePass _
      · exact o
  | slot k =>
    have passed : (s.passSlot k).Owes [] := o.of_eq rfl
    exact inj e (o.ite fun _ => passed.takeSlot k)
  | resetAsserted =>
    refine inj e ?_
    split
    · exact o
    · exact o.assertReset
  | resetRelease cabs baud pins => exact inj e (o.ite fun _ => powerOn_owes cabs baud pins _)
  | characterReceived p b => exact inj e (o.ite fun _ => (o.settle p).character p b)

/-- Settles O60: whatever a command changes of what a condition is read from, it hands that condition over before it ends. -/
theorem keepsTheNotices : Obligations.KeepsTheNotices := by
  intro s t h e
  have o := State.noticesOk_iff_owes.mp h
  refine State.noticesOk_iff_owes.mpr ?_
  unfold step at e
  split at e
  · have taken : ∀ rest, State.Owes [] { s with pending := rest } := fun _ => o.of_eq rfl
    exact exec_owes (taken _) e
  · cases e
    exact o.ite fun _ => o.of_eq rfl

end Sys2Proof.Machine
end

section
/-!
PROOFS. NOTICE ENABLE and NOTICE CLEAR (R154, R167): O34. The alert lines, the notice code and the levels the part drives
(R168, R171, R173, R174): O50.
-/
namespace Sys2Proof.Machine

/-! ### NOTICE ENABLE and NOTICE CLEAR (R167) -/

section
variable {p : Port} {m : Msg} {hi lo : Byte} (s : State)

theorem noticeEnableBody_eq (hl : m.payload = [hi, lo]) : noticeEnableBody p m s =
    done m (s.onSet p fun n bits => n.setEnable (hi ++ lo) bits) false := by
  simp only [noticeEnableBody, hl]

theorem noticeClearBody_eq (hl : m.payload = [hi, lo]) : noticeClearBody p m s =
    done m (s.onSet p fun n bits => n.clear ((hi ++ lo) &&& bits)) false := by
  simp only [noticeClearBody, hl]

end

/-- A request of the D-port acts on the D-set alone (R154). -/
theorem State.onSet_d (s : State) (f : NoticeSet → Mask → NoticeSet) :
    (s.onSet .d f).dset = f s.dset dsetBits ∧ SameBut [.dset] s (s.onSet .d f) := by
  refine ⟨rfl, fun k hk => ?_⟩
  cases k with
  | dset => simp at hk
  | _ => rfl

/-- A request of the S-port acts on the S-set alone (R154). -/
theorem State.onSet_s (s : State) (f : NoticeSet → Mask → NoticeSet) :
    (s.onSet .s f).sset = f s.sset ssetBits ∧ SameBut [.sset] s (s.onSet .s f) := by
  refine ⟨rfl, fun k hk => ?_⟩
  cases k with
  | sset => simp at hk
  | _ => rfl

theorem dsetBits_getLsbD : ∀ k < 16, dsetBits.getLsbD k = decide (k < 6) := by decide

theorem ssetBits_getLsbD : ∀ k < 16, ssetBits.getLsbD k = decide (k < 8) := by decide

/-- Settles O34: the body acts on the asking port's set alone, and what it writes is read off bit by bit. -/
theorem noticeRequestsActOnOneSet : Obligations.NoticeRequestsActOnOneSet := by
  intro s p m hi lo hp hu hl
  have attached : ∀ f, s.Takes p .noticeEnable m ∨ s.Takes p .noticeClear m →
      (((s.take p).onSet p f).port p).health ≠ .detached := fun f h => by
    rw [((s.take p).onSet_frame p f).port (by simp)]
    exact h.elim (·.attached) (·.attached)
  refine ⟨fun ht => ?_, fun ht => ?_⟩
  · have passes : Kind.noticeEnable.Passes p m :=
      ⟨by rcases hp with rfl | rfl <;> rfl, by rw [hl]; rfl, by rw [hu]; rfl⟩
    refine ⟨_, congrArg Host.Outcome.next (State.handle_ok ht passes (noticeEnableBody_eq _ hl) (attached _ (.inl ht))), ?_, ?_⟩
    · rintro rfl; exact (s.take .d).onSet_d _
    · rintro rfl; exact (s.take .s).onSet_s _
  · have passes : Kind.noticeClear.Passes p m :=
      ⟨by rcases hp with rfl | rfl <;> rfl, by rw [hl]; rfl, by rw [hu]; rfl⟩
    refine ⟨_, congrArg Host.Outcome.next (State.handle_ok ht passes (noticeClearBody_eq _ hl) (attached _ (.inr ht))), ?_, ?_⟩
    · rintro rfl
      obtain ⟨written, frame⟩ := (s.take .d).onSet_d fun n bits => n.clear ((hi ++ lo) &&& bits)
      refine ⟨frame, by rw [written]; rfl, by rw [written]; rfl, fun k hk => ?_⟩
      rw [written, NoticeSet.clear_pending, BitVec.getLsbD_and, dsetBits_getLsbD k hk]
      rfl
    · rintro rfl
      obtain ⟨written, frame⟩ := (s.take .s).onSet_s fun n bits => n.clear ((hi ++ lo) &&& bits)
      refine ⟨frame, by rw [written]; rfl, by rw [written]; rfl, fun k hk => ?_⟩
      rw [written, NoticeSet.clear_pending, BitVec.getLsbD_and, ssetBits_getLsbD k hk]
      rfl

/-! ### Alert lines and notice code (R168) -/

theorem NoticeSet.active_getLsbD (n : NoticeSet) (k : Nat) :
    n.active.getLsbD k = (n.pending.getLsbD k && n.enable.getLsbD k) := BitVec.getLsbD_and

/-- A flag of the S-set that drives the alert line has a code of 1 to 8. -/
theorem NoticeSet.Ok.lt_eight {n : NoticeSet} (h : n.Ok ssetBits) {k : Nat} (hk : n.active.getLsbD k = true) : k < 8 := by
  obtain ⟨pending, -, -⟩ := NoticeSet.ok_iff.mp h
  rw [NoticeSet.active_getLsbD, Bool.and_eq_true] at hk
  have named := pending k hk.1
  rw [ssetBits_getLsbD k (BitVec.lt_of_getLsbD named)] at named
  exact of_decide_eq_true named

/-- The alert line is driven exactly while some flag is pending and enabled. -/
theorem NoticeSet.alert_iff (n : NoticeSet) :
    n.alert = true ↔ ∃ k, k < 16 ∧ n.pending.getLsbD k = true ∧ n.enable.getLsbD k = true := by
  have bits : n.active = 0 ↔ ∀ k, n.active.getLsbD k = false := BitVec.zero_iff_eq_false
  simp only [NoticeSet.alert, bne_iff_ne, ne_eq, bits, not_forall, Bool.not_eq_false, NoticeSet.active_getLsbD, Bool.and_eq_true]
  exact exists_congr fun k => ⟨fun h => ⟨BitVec.lt_of_getLsbD h.1, h⟩, And.right⟩

/-- The notice code is 0 where nothing drives the alert line, and otherwise the lowest code that does. -/
theorem NoticeSet.code_spec {n : NoticeSet} (h : n.Ok ssetBits) :
    (n.code = 0 ↔ n.pending &&& n.enable = 0) ∧
    ∀ k, n.code = k + 1 → (n.pending.getLsbD k && n.enable.getLsbD k) = true ∧
      ∀ i, i < k → (n.pending.getLsbD i && n.enable.getLsbD i) = false := by
  have bits : n.pending &&& n.enable = 0 ↔ ∀ k, n.active.getLsbD k = false := BitVec.zero_iff_eq_false
  simp only [← NoticeSet.active_getLsbD, bits]
  unfold NoticeSet.code
  cases search : (List.range 8).find? fun k => n.active.getLsbD k with
  | none =>
    have quiet : ∀ k, k < 8 → n.active.getLsbD k = false := by simpa using search
    refine ⟨⟨fun _ k => ?_, fun _ => rfl⟩, fun k e => by cases e⟩
    by_contra drives
    rw [Bool.not_eq_false] at drives
    rw [quiet k (h.lt_eight drives)] at drives
    cases drives
  | some j =>
    obtain ⟨drives, -, lower⟩ := List.find?_range_eq_some.mp search
    refine ⟨⟨fun e => (by cases e), fun none => ?_⟩, fun k e => ?_⟩
    · rw [none j] at drives; cases drives
    · cases e
      exact ⟨drives, fun i hi => by simpa using lower i hi⟩

/-! ### The levels the part drives (R171, R173, R174) -/

section
variable {s : State} (high : s.resetLow = false)
include high

theorem State.alertD_of_resetHigh : s.alertD = s.dset.alert := by rw [State.alertD, high]; rfl

theorem State.alertS_of_resetHigh : s.alertS = s.sset.alert := by rw [State.alertS, high]; rfl

/-- A GENERAL pin drives its latch as an output, and nothing as an input (R171). -/
theorem State.pinDrive_general {n : Fin 8} (hd : s.dedicated n.val = false) :
    s.pinDrive n = if s.pins.dir.getLsbD n.val then some (s.pins.latch.getLsbD n.val) else none := by
  simp only [State.pinDrive, high, hd, Bool.false_eq_true, if_false]

/-- A DEDICATED GP0 or GP1 is an input (R173). -/
theorem State.pinDrive_input {n : Fin 8} (hn : n.val < 2) (hd : s.dedicated n.val = true) : s.pinDrive n = none := by
  simp only [State.pinDrive, high, hd, hn, Bool.false_eq_true, if_false, if_true]

/-- A DEDICATED GP2 to GP7 drives the level of its function (R174). -/
theorem State.pinDrive_function {n : Fin 8} (hn : 2 ≤ n.val) (hd : s.dedicated n.val = true) :
    s.pinDrive n = some (s.functionLevel n) := by
  simp only [State.pinDrive, high, hd, Nat.not_lt.mpr hn, Bool.false_eq_true, if_false, if_true]

end

/-- GP4 to GP7 carry the PERMIT levels of C0 to C3 (R174). -/
theorem State.functionLevel_permit (s : State) (c : Fin 4) : s.functionLevel ⟨4 + c.val, by omega⟩ = s.permitLevel c := by
  have cabinet : (⟨(4 + c.val - 4) % 4, by omega⟩ : Fin 4) = c := Fin.ext (by simp only; omega)
  simp only [State.functionLevel, cabinet]
  rw [if_neg (by omega), if_neg (by omega)]

theorem State.permitLevel_eq (s : State) (c : Fin 4) : s.permitLevel c =
    decide (s.mode ≠ .configure ∧ c.val ≤ s.straps.cabs.toNat ∧ (s.port (.c c)).health ≠ .detached) := by
  rw [Bool.eq_iff_iff]
  simp [State.permitLevel, State.present, and_assoc]

/-- Settles O50. -/
theorem alertLinesAndPins : Obligations.AlertLinesAndPins := by
  refine ⟨fun s high => ⟨?_, ?_, fun n => State.pinDrive_general high, fun n => State.pinDrive_input high, fun run => ?_,
    fun any => ?_, fun c permit => ?_⟩, fun n => NoticeSet.code_spec⟩
  · rw [State.alertD_of_resetHigh high]; exact s.dset.alert_iff
  · rw [State.alertS_of_resetHigh high]; exact s.sset.alert_iff
  · rw [State.pinDrive_function high (n := 2) (by decide) run]; rfl
  · rw [State.pinDrive_function high (n := 3) (by decide) any]; rfl
  · rw [State.pinDrive_function high (n := ⟨4 + c.val, by omega⟩) (by simp only; omega) permit, State.functionLevel_permit,
      State.permitLevel_eq]

end Sys2Proof.Machine
end

section
/-!
SUPPORT. The queue of the commands that wait (log 1): no operation of the part reads or writes it.
-/
namespace Sys2Proof.Machine

/-! ### How commands are put together -/

/-- An event that comes about under a condition, and changes nothing where it does not (log 3). -/
theorem State.pending_ite {c : Prop} [Decidable c] {s t : State} (h : t.pending = s.pending) :
    (if c then t else s).pending = s.pending := by
  split
  · exact h
  · rfl

theorem State.pending_foldl {α : Type} {f : State → α → State} (hf : ∀ u a, (f u a).pending = u.pending) :
    ∀ (l : List α) (s : State), (l.foldl f s).pending = s.pending
  | [], _ => rfl
  | a :: l, s => (State.pending_foldl hf l (f s a)).trans (hf s a)

@[simp] theorem State.take_pending (s : State) (p : Port) : (s.take p).pending = s.pending := (s.take_frame p).pending (by simp)

@[simp] theorem State.reply_pending (s : State) (p : Port) (m : Msg) : (s.reply p m).pending = s.pending :=
  (s.reply_frame p m).pending (by simp)

theorem State.handle_pending {s : State} {k : Kind} {p : Port} {body : Msg → State → State × Option Msg}
    (hb : ∀ m u, (body m u).1.pending = u.pending) : (s.handle k p body).pending = s.pending :=
  State.handle_keeps (P := fun t => t.pending = s.pending) (fun f h => (f.pending (by simp)).trans h)
    (fun m _ h => (hb m _).trans h) rfl

theorem onCabinet_pending {p : Port} {f : Fin 4 → Msg → State → State × Option Msg}
    (h : ∀ n m u, (f n m u).1.pending = u.pending) (m : Msg) (u : State) : (onCabinet p f m u).1.pending = u.pending :=
  onCabinet_keeps (R := fun s t => t.pending = s.pending) (fun _ => rfl) h m u

/-! ### Publications and sessions -/

@[simp] theorem State.mark_pending (s : State) (b : Fin 32) : (s.mark b).pending = s.pending := (s.mark_frame b).pending (by simp)

@[simp] theorem State.publish_pending (s : State) (b : Fin 32) (v : Nat) : (s.publish b v).pending = s.pending := by
  by_cases h : (s.bay b).reachable = true
  · exact (State.publish_spec v h).frame.pending (by simp)
  · rw [State.publish_unreachable v (by simpa using h)]

@[simp] theorem State.limitVehicle_pending (s : State) (b : Fin 32) : (s.limitVehicle b).pending = s.pending :=
  State.pending_ite (s.publish_pending b _)

@[simp] theorem State.confirm_pending (s : State) (b : Fin 32) (q : Byte) : (s.confirm b q).pending = s.pending :=
  State.pending_ite (by simp)

@[simp] theorem State.resync_pending (s : State) (b : Fin 32) (v : Nat) (q : Byte) : (s.resync b v q).pending = s.pending :=
  (State.pending_ite (State.publish_pending _ b _)).trans
    ((State.limitVehicle_pending _ b).trans ((s.adopt_spec b v q).frame.pending (by simp)))

@[simp] theorem State.satisfy_pending (s : State) (b : Fin 32) : (s.satisfy b).pending = s.pending := by
  cases h : (s.bay b).session with
  | none => simp only [State.satisfy, h]
  | some x =>
    obtain ⟨-, -, -, -, frame⟩ := State.satisfy_spec h
    exact frame.pending (by simp)

@[simp] theorem State.endSession_pending (s : State) (b : Fin 32) : (s.endSession b).pending = s.pending := by
  cases h : (s.bay b).session with
  | none => rw [State.endSession_none h]
  | some x => exact (State.endSession_spec h).frame.pending (by simp)

@[simp] theorem State.startSession_pending (s : State) (b : Fin 32) (tag : Tag) (pveh : Nat) :
    (s.startSession b tag pveh).1.pending = s.pending := (s.startSession_spec b tag pveh).frame.pending (by simp)

@[simp] theorem State.onSession_pending (s : State) (b : Fin 32) (f : Session → Session) :
    (s.onSession b f).pending = s.pending := (s.onSession_frame b f).pending (by simp)

/-! ### The cabinets' messages (chapter 8) -/

@[simp] theorem State.fitOutlet_pending (s : State) (b : Fin 32) (cap : Nat) : (s.fitOutlet b cap).pending = s.pending := by
  simp only [State.fitOutlet]
  split <;> simp

@[simp] theorem State.unfitOutlet_pending (s : State) (b : Fin 32) : (s.unfitOutlet b).pending = s.pending := by
  unfold State.unfitOutlet
  split
  · rfl
  · simp

theorem outletsBody_pending (c : Fin 4) (m : Msg) (s : State) : (outletsBody c m s).1.pending = s.pending := by
  simp only [outletsBody]
  split
  · rw [done_fst]
    refine State.pending_foldl (fun u o => ?_) allOutlets s
    split
    · exact u.fitOutlet_pending _ _
    · exact u.unfitOutlet_pending _
  · rfl

theorem plugBody_pending (c : Fin 4) (m : Msg) (s : State) : (plugBody c m s).1.pending = s.pending := by
  unfold plugBody
  split
  · simp only
    split
    · rfl
    · simp
  · rfl

theorem unplugBody_pending (c : Fin 4) (m : Msg) (s : State) : (unplugBody c m s).1.pending = s.pending := by
  simp only [unplugBody]
  split
  · rfl
  · rfl
  · exact s.endSession_pending _

@[simp] theorem State.takeApplied_pending (s : State) (b : Fin 32) (f : MeterFields) :
    (s.takeApplied b f).pending = s.pending := by
  unfold State.takeApplied
  split
  · exact s.resync_pending b _ _
  · exact s.confirm_pending b _

@[simp] theorem State.meter_pending (s : State) (b : Fin 32) (x : Session) (f : MeterFields) :
    (s.meter b x f).pending = s.pending := by simp [State.meter]

theorem meterBody_pending (c : Fin 4) (m : Msg) (s : State) : (meterBody c m s).1.pending = s.pending := by
  simp only [meterBody]
  split
  · simp only
    split
    · exact s.meter_pending _ _ _
    · exact s.endSession_pending _
  · rfl

theorem appliedBody_pending (c : Fin 4) (m : Msg) (s : State) : (appliedBody c m s).1.pending = s.pending := by
  unfold appliedBody
  split
  · exact s.confirm_pending _ _
  · rfl

@[simp] theorem State.faultOutlet_pending (s : State) (b : Fin 32) (x : Session) (code : Byte) :
    (s.faultOutlet b x code).pending = s.pending := by
  simp only [State.faultOutlet, State.raiseS_pending]
  split <;> simp

theorem outletFaultBody_pending (c : Fin 4) (m : Msg) (s : State) : (outletFaultBody c m s).1.pending = s.pending := by
  unfold outletFaultBody
  split
  · simp only
    split
    · rfl
    · rfl
    · exact s.faultOutlet_pending _ _ _
  · rfl

/-! ### Dispatch requests (chapters 1, 2 and 9) -/

@[simp] theorem State.relink_pending (s : State) (k : Fin 64) : (s.relink k).pending = s.pending := by
  have denies : ∀ (l : List (Fin 32)) (d : Disposition) (u : State),
      (l.foldl (fun v b => v.onSession b (·.deny d)) u).pending = u.pending := fun l _ =>
    State.pending_foldl (fun v b => v.onSession_pending b _) l
  unfold State.relink
  split
  · rfl
  · rename_i e _
    refine State.pending_ite ?_
    simp only
    split
    · exact denies _ .refused s
    · cases allBays.filter (s.relinks e.tag) with
      | nil => rfl
      | cons b rest =>
        simp only [State.linkBays]
        split
        · simp [denies]
        · simp [denies]

@[simp] theorem State.leavePlugged_pending (s : State) (k : Fin 64) (n : Nat) : (s.leavePlugged k n).pending = s.pending := by
  unfold State.leavePlugged
  split
  · simp
  · rfl

@[simp] theorem State.updateEntry_pending (s : State) (k : Fin 64) (e : Entry) (f : PutFields) :
    (s.updateEntry k e f).pending = s.pending := by
  simp only [State.updateEntry, State.barEntry]
  split
  · split
    · simp
    · simp
  · simp

theorem rosterPutBody_pending (m : Msg) (s : State) : (rosterPutBody m s).1.pending = s.pending := by
  unfold rosterPutBody
  split
  · rfl
  · split
    · split
      · simp [done_fst]
      · rfl
    · split
      · rfl
      · split
        · rfl
        · simp [done_fst, State.addEntry]

theorem rosterDropBody_pending (m : Msg) (s : State) : (rosterDropBody m s).1.pending = s.pending := by
  unfold rosterDropBody
  split
  · simp only
    split
    · rfl
    · split
      · rfl
      · split
        · rfl
        · simp [done_fst]
  · rfl

@[simp] theorem State.minuteTick_pending (s : State) : s.minuteTick.pending = s.pending :=
  (s.minuteTick_evaluates s.clock).frame.pending (by simp)

theorem clockSetBody_pending (m : Msg) (s : State) : (clockSetBody m s).1.pending = s.pending := by
  unfold clockSetBody
  split
  · rw [done_fst, State.setClock_eq]
    exact (s.evaluateDepartures_evaluates _).frame.pending (by simp)
  · rfl

theorem vanPolicyBody_pending (m : Msg) (s : State) : (vanPolicyBody m s).1.pending = s.pending := by
  unfold vanPolicyBody
  split <;> rfl

theorem tagWindowBody_pending (m : Msg) (s : State) : (tagWindowBody m s).1.pending = s.pending := by
  unfold tagWindowBody
  split
  · split
    · rfl
    · rfl
  · rfl

@[simp] theorem State.endRebuild_pending (s : State) (r : Rebuild) : (s.endRebuild r).pending = s.pending := by
  have indexed : ∀ x, (s.withIndex x).pending = s.pending := fun x => (s.withIndex_frame x).pending (by simp)
  cases h : s.rebuiltIndex r.window with
  | some v => rw [State.endRebuild_taken h, State.reply_pending, indexed]
  | none => rw [State.endRebuild_collision h, State.reply_pending, indexed]

/-! ### Requests shared by both ports (R154) -/

theorem readBody_pending (p : Port) (pins : PinReading) (m : Msg) (s : State) :
    (readBody p pins m s).1.pending = s.pending := by
  unfold readBody
  split <;> rfl

theorem replyLimitBody_pending (p : Port) (m : Msg) (s : State) : (replyLimitBody p m s).1.pending = s.pending := by
  unfold replyLimitBody
  split
  · rw [done_fst, State.setLimit]
    split
    · rfl
    · rfl
  · rfl

theorem noticeEnableBody_pending (p : Port) (m : Msg) (s : State) : (noticeEnableBody p m s).1.pending = s.pending := by
  unfold noticeEnableBody
  split
  · rw [done_fst]; exact (s.onSet_frame p _).pending (by simp)
  · rfl

theorem noticeClearBody_pending (p : Port) (m : Msg) (s : State) : (noticeClearBody p m s).1.pending = s.pending := by
  unfold noticeClearBody
  split
  · rw [done_fst]; exact (s.onSet_frame p _).pending (by simp)
  · rfl

/-! ### Rounds, modes, passes and the shed (chapters 3, 5 and 10) -/

@[simp] theorem State.roundStart_pending (s : State) : s.roundStart.pending = s.pending :=
  s.roundStart_spec.frame.pending (by simp)

@[simp] theorem State.requestEarly_pending (s : State) : s.requestEarly.pending = s.pending := by
  unfold State.requestEarly
  split
  · rfl
  · split
    · rfl
    · exact s.roundStart_pending

@[simp] theorem State.requestIfExceeded_pending (s : State) : s.requestIfExceeded.pending = s.pending :=
  State.pending_ite s.requestEarly_pending

theorem ModeTakesEffect.pending {s t : State} {m : Mode} (c : ModeTakesEffect s t m) : t.pending = s.pending := by
  unfold ModeTakesEffect at c
  split at c
  · rw [c]
  · split at c
    · exact c.frame.pending (by simp)
    · split at c
      · obtain ⟨u, silence, starts⟩ := c
        exact (starts.frame.pending (by simp)).trans (silence.frame.pending (by simp))
      · obtain ⟨u, silence, swaps⟩ := c
        have kept : u.pending = s.pending := silence.frame.pending (by simp)
        rw [swaps]
        split
        · exact kept
        · exact kept

@[simp] theorem State.changeMode_pending (s : State) (m : Mode) : (s.changeMode m).pending = s.pending :=
  (s.changeMode_spec m).pending

@[simp] theorem State.takeSlot_pending (s : State) (k : Fin 4) : (s.takeSlot k).pending = s.pending :=
  (s.takeSlot_frame k).pending (by simp)

@[simp] theorem State.finishPass_pending (s : State) (sn : Snapshot) : (s.finishPass sn).pending = s.pending := by
  rw [s.finishPass_eq]
  calc (s.handed sn).opened.endPass.pending
    _ = (s.handed sn).opened.pending := (State.endPass_frame _).pending (by simp)
    _ = (s.handed sn).pending := (State.opened_frame _).pending (by simp)
    _ = s.pending := (s.handed_frame sn).pending (by simp)

@[simp] theorem State.takePendingMode_pending (s : State) : s.takePendingMode.pending = s.pending := by
  unfold State.takePendingMode
  split
  · exact s.changeMode_pending _
  · rfl

@[simp] theorem State.takeHeldRequest_pending (s : State) : s.takeHeldRequest.pending = s.pending := by
  refine State.pending_ite ?_
  simp only
  split
  · rfl
  · exact State.roundStart_pending _

@[simp] theorem State.completePass_pending (s : State) (sn : Snapshot) : (s.completePass sn).pending = s.pending := by
  simp [State.completePass]

@[simp] theorem State.assertShed_pending (s : State) : s.assertShed.pending = s.pending := by
  simp only [State.assertShed, State.requestEarly_pending, State.evalExceeded_pending, State.evalShed_pending]
  split
  · rfl
  · exact (State.halveAll_spec _).frame.pending (by simp)

@[simp] theorem State.releaseShed_pending (s : State) : s.releaseShed.pending = s.pending := by simp [State.releaseShed]

@[simp] theorem State.setupPins_pending (s : State) (fn dir pins : Byte) : (s.setupPins fn dir pins).pending = s.pending := by
  have masks : (s.withPins fn dir pins).pending = s.pending := (s.withPins_frame fn dir pins).pending (by simp)
  rw [State.setupPins_eq]
  split
  · exact masks
  · split
    · split
      · exact masks
      · exact (State.assertShed_pending _).trans masks
    · split
      · exact (State.releaseShed_pending _).trans masks
      · exact masks

/-! ### Site requests (chapters 3, 7, 9 and 10) -/

theorem siteLimitBody_pending (m : Msg) (s : State) : (siteLimitBody m s).1.pending = s.pending := by
  unfold siteLimitBody
  split
  · simp [done_fst]
  · rfl

theorem loadReportBody_pending (m : Msg) (s : State) : (loadReportBody m s).1.pending = s.pending := by
  unfold loadReportBody
  split
  · simp [done_fst]
  · rfl

theorem rampLimitBody_pending (m : Msg) (s : State) : (rampLimitBody m s).1.pending = s.pending := by
  unfold rampLimitBody
  split <;> rfl

theorem modeRequestBody_pending (m : Msg) (s : State) : (modeRequestBody m s).1.pending = s.pending := by
  unfold modeRequestBody
  split
  · split
    · rfl
    · rw [done_fst, State.requestMode]
      split
      · rfl
      · exact s.changeMode_pending _
  · rfl

theorem restartBody_pending (m : Msg) (s : State) : (restartBody m s).1.pending = s.pending :=
  (s.restartBlocks.handConditions_frame.pending (by simp)).trans (s.restartBlocks_frame.pending (by simp))

theorem releaseCabinetBody_pending (m : Msg) (s : State) : (releaseCabinetBody m s).1.pending = s.pending := by
  simp only [releaseCabinetBody]
  split
  · rfl
  · split
    · rfl
    · rw [done_fst]; exact State.pending_foldl State.endSession_pending (baysOf _) s

theorem allocationSetupBody_pending (m : Msg) (s : State) : (allocationSetupBody m s).1.pending = s.pending := by
  unfold allocationSetupBody
  split
  · split
    · rfl
    · rfl
  · rfl

theorem slotAssignBody_pending (m : Msg) (s : State) : (slotAssignBody m s).1.pending = s.pending := by
  unfold slotAssignBody
  split
  · simp only
    split
    · split
      · rfl
      · rfl
    · rfl
  · rfl

theorem pinSetupBody_pending (pins : Byte) (m : Msg) (s : State) : (pinSetupBody pins m s).1.pending = s.pending := by
  unfold pinSetupBody
  split
  · split
    · exact s.setupPins_pending _ _ _
    · split
      · rfl
      · rfl
  · rfl

theorem pinWriteBody_pending (m : Msg) (s : State) : (pinWriteBody m s).1.pending = s.pending := by
  unfold pinWriteBody
  split <;> rfl

/-! ### Links (chapters 6 and 7) -/

@[simp] theorem State.setRx_pending (s : State) (p : Port) (x : Receiver) : (s.setRx p x).pending = s.pending :=
  s.setPort_pending p _

@[simp] theorem State.detach_pending (s : State) (p : Port) : (s.detach p).pending = s.pending :=
  (s.detach_spec p).frame.pending (by simp)

@[simp] theorem State.reject_pending (s : State) (p : Port) : (s.reject p).pending = s.pending := by
  simp only [State.reject]
  split
  · simp
  · split <;> simp

@[simp] theorem State.acceptDetached_pending (s : State) (p : Port) (k : Byte) : (s.acceptDetached p k).pending = s.pending := by
  refine State.pending_ite ?_
  split
  · exact (s.rejoin_spec p).frame.pending (by simp)
  · simp

@[simp] theorem State.handOn_pending (s : State) (p : Port) (x : Item) : (s.handOn p x).pending = s.pending := by
  simp only [State.handOn, State.overrun]
  split
  · rfl
  · split
    · simp
    · split <;> simp

@[simp] theorem State.deliver_pending (s : State) (p : Port) (m : Msg) (good : Bool) :
    (s.deliver p m good).pending = s.pending := by
  unfold State.deliver
  split
  · split
    · simp
    · exact (State.handOn_pending _ p _).trans ((s.accept_spec p).frame.pending (by simp))
  · split <;> simp

@[simp] theorem State.faultHeader_pending (s : State) (p : Port) : (s.faultHeader p).pending = s.pending := by
  simp [State.faultHeader]

@[simp] theorem State.frameError_pending (s : State) (p : Port) : (s.frameError p).pending = s.pending :=
  s.faultHeader_pending p

@[simp] theorem State.completeMessage_pending (s : State) (p : Port) : (s.completeMessage p).pending = s.pending := by
  unfold State.completeMessage
  split
  · split
    · simp
    · rfl
  · rfl

@[simp] theorem State.settle_pending (s : State) (p : Port) : (s.settle p).pending = s.pending := by
  unfold State.settle
  split
  · exact s.faultHeader_pending p
  · exact State.pending_ite (s.completeMessage_pending p)

@[simp] theorem State.character_pending (s : State) (p : Port) (b : Byte) : (s.character p b).pending = s.pending := by
  unfold State.character
  split
  · simp
  · rfl
  · simp
  · simp

@[simp] theorem State.beginSending_pending (s : State) (p : Port) : (s.beginSending p).pending = s.pending := by
  have replies : (s.sendReply p).pending = s.pending := by
    simp only [State.sendReply]
    split <;> simp
  unfold State.beginSending
  split
  · split
    · simp
    · exact replies
  · exact replies

end Sys2Proof.Machine
end

section
/-!
PROOFS. The queue through every command and step (log 1), and the rest while RESET is low (R163, logs 3 and 12): O1, O3 and O4.
-/
namespace Sys2Proof.Machine

/-! ### The queue -/

/-- Settles O1. -/
theorem stepRunsTheFrontCommand : Obligations.StepRunsTheFrontCommand := by
  intro s c rest front
  simp only [step, front]

/-- Settles O3: an event is an operation that comes about or does not, a request the rule of its kind; none of them writes the
queue, and a reset release takes it over. -/
theorem commandsKeepTheQueue : Obligations.CommandsKeepTheQueue := by
  intro c s t e
  have inj : ∀ {u : State}, Host.Outcome.next (φ := Fault) (ρ := Refusal) u = .next t → u.pending = s.pending →
      t.pending = s.pending := by
    rintro u ⟨⟩ hu; exact hu
  cases c with
  | messageComplete p => exact inj e (State.pending_ite (s.completeMessage_pending p))
  | headerFault p => exact inj e (State.pending_ite (s.faultHeader_pending p))
  | framingError p cause =>
    refine inj e (State.pending_ite ?_)
    simp only
    split <;> simp
  | idleGapElapsed p =>
    refine inj e (State.pending_ite ?_)
    simp only
    split <;> simp
  | silenceTimerExpiry c => exact inj e (State.pending_ite (s.detach_pending (.c c)))
  | payloadCheck p =>
    refine inj e ?_
    split
    · simp
    · rfl
  | unknownKind p =>
    refine inj e ?_
    split
    · split
      · simp
      · rfl
    · rfl
  | keepalive p => exact inj e (State.handle_pending fun _ _ => rfl)
  | outlets p => exact inj e (State.handle_pending (onCabinet_pending outletsBody_pending))
  | plug p => exact inj e (State.handle_pending (onCabinet_pending plugBody_pending))
  | unplug p => exact inj e (State.handle_pending (onCabinet_pending unplugBody_pending))
  | meter p => exact inj e (State.handle_pending (onCabinet_pending meterBody_pending))
  | roundEnd p => exact inj e (State.handle_pending (onCabinet_pending fun _ _ _ => rfl))
  | applied p => exact inj e (State.handle_pending (onCabinet_pending appliedBody_pending))
  | outletFault p => exact inj e (State.handle_pending (onCabinet_pending outletFaultBody_pending))
  | rosterPut p => exact inj e (State.handle_pending rosterPutBody_pending)
  | rosterDrop p => exact inj e (State.handle_pending rosterDropBody_pending)
  | clockSet p => exact inj e (State.handle_pending clockSetBody_pending)
  | vanPolicy p => exact inj e (State.handle_pending vanPolicyBody_pending)
  | tagWindow p => exact inj e (State.handle_pending tagWindowBody_pending)
  | indexRebuildEnd =>
    refine inj e ?_
    split
    · rfl
    · split
      · exact s.endRebuild_pending _
      · rfl
  | read p pins => exact inj e (State.handle_pending (readBody_pending p pins))
  | replyLimit p => exact inj e (State.handle_pending (replyLimitBody_pending p))
  | noticeEnable p => exact inj e (State.handle_pending (noticeEnableBody_pending p))
  | noticeClear p => exact inj e (State.handle_pending (noticeClearBody_pending p))
  | siteLimit p => exact inj e (State.handle_pending siteLimitBody_pending)
  | loadReport p => exact inj e (State.handle_pending loadReportBody_pending)
  | rampLimit p => exact inj e (State.handle_pending rampLimitBody_pending)
  | modeRequest p => exact inj e (State.handle_pending modeRequestBody_pending)
  | restart p => exact inj e (State.handle_pending restartBody_pending)
  | releaseCabinet p => exact inj e (State.handle_pending releaseCabinetBody_pending)
  | allocationSetup p => exact inj e (State.handle_pending allocationSetupBody_pending)
  | slotAssign p => exact inj e (State.handle_pending slotAssignBody_pending)
  | pinSetup p pins => exact inj e (State.handle_pending (pinSetupBody_pending pins))
  | pinWrite p => exact inj e (State.handle_pending pinWriteBody_pending)
  | endOfGap p => exact inj e (State.pending_ite (s.beginSending_pending p))
  | messageSent p => exact inj e (State.pending_ite ((State.kick_frame _ p).pending (by simp)))
  | secondComplete =>
    refine inj e (State.pending_ite ?_)
    simp only
    split
    · rfl
    · exact State.minuteTick_pending _
  | minuteEvent =>
    refine inj e (State.pending_ite ?_)
    split
    · exact State.minuteTick_pending _
    · exact State.pending_ite (State.minuteTick_pending _)
  | minutePulse => exact inj e (State.pending_ite (State.minuteTick_pending _))
  | shedAssertion => exact inj e (State.pending_ite (State.assertShed_pending _))
  | shedRelease => exact inj e (State.pending_ite (State.releaseShed_pending _))
  | roundTimerExpiry => exact inj e (State.pending_ite s.roundStart_pending)
  | passCompletion =>
    refine inj e ?_
    split
    · rfl
    · split
      · exact s.completePass_pending _
      · rfl
  | slot k => exact inj e (State.pending_ite (State.takeSlot_pending _ k))
  | resetAsserted =>
    refine inj e ?_
    split <;> rfl
  | resetRelease cabs baud pins => exact inj e (State.pending_ite rfl)
  | characterReceived p b => exact inj e (State.pending_ite (by simp))

/-! ### While RESET is low (R163) -/

section
variable {s : State} (low : s.resetLow = true)
include low

theorem State.listens_of_resetLow (p : Port) : s.listens p = false := by simp [State.listens, low]

theorem State.offered_of_resetLow (p : Port) : s.offered p = none := if_pos low

/-- No handler takes anything. -/
theorem exec_handled_of_resetLow {c : Instr} {p : Port} {k : Kind} (h : handled c = some (p, k)) : exec c s = .next s := by
  obtain ⟨body, run⟩ := exec_handled h
  have nothing : ∀ m, s.offered p = some (.message m) → m.kind ≠ k.code := fun m offer => by
    rw [State.offered_of_resetLow low] at offer; cases offer
  rw [run, State.handle_waits body nothing]

end

/-- An event whose condition does not hold changes nothing (log 3). -/
theorem next_of_not {c : Bool} {s t : State} (h : c = false) :
    Host.Outcome.next (φ := Fault) (ρ := Refusal) (if c then t else s) = .next s := by rw [h]; rfl

/-- Settles O4: no receiver listens, no handler is offered an item, and the condition of every other event has RESET high. -/
theorem resetLowStopsTheRest : Obligations.ResetLowStopsTheRest := by
  intro c s low other
  have deaf := State.listens_of_resetLow low
  have nothing := State.offered_of_resetLow low
  cases c with
  | messageComplete p => exact next_of_not (by simp [deaf])
  | headerFault p => exact next_of_not (by simp [deaf])
  | framingError p cause => exact next_of_not (deaf p)
  | idleGapElapsed p => exact next_of_not (deaf p)
  | characterReceived p b => exact next_of_not (deaf p)
  | payloadCheck p => simp only [exec, execPayloadCheck, nothing]
  | unknownKind p => simp only [exec, execUnknownKind, nothing]
  | indexRebuildEnd | passCompletion | resetAsserted => exact congrArg Host.Outcome.next (if_pos low)
  | silenceTimerExpiry | endOfGap | messageSent => exact next_of_not (by simp [low])
  | secondComplete | minuteEvent | minutePulse | shedAssertion | shedRelease => exact next_of_not (by simp [low])
  | roundTimerExpiry | slot => exact next_of_not (by simp [low])
  | resetRelease cabs baud pins => exact absurd rfl (other cabs baud pins)
  | _ => exact exec_handled_of_resetLow low rfl

end Sys2Proof.Machine
end
